-- ==== Sys2Proof/Word.lean ====
section
/-! DEFINITION. The two data widths the block handles: bytes and stream words (00_scope.md R7, 30_encoding.md R70). -/
namespace Sys2Proof

/-- An unsigned byte (00_scope.md R8). -/
abbrev Byte := BitVec 8

/-- One 11-bit stream word `w[10:0]` (30_encoding.md R70). -/
abbrev StreamWord := BitVec 11

end Sys2Proof
end

