-- ==== Sys2Proof/Syntax.lean ====
section
/-! DEFINITION. The operations of spec/opcode_table.json, one constructor per row. -/
namespace Sys2Proof

/-- The 29 rows of spec/opcode_table.json. `b` is the operand `w[7:0]` of 30_encoding.md R73. -/
inductive Instr where
  /-- RESET, 40_frame_sync.md R101. -/
  | reset
  /-- FAIL, 40_frame_sync.md R102. -/
  | fail
  /-- BYTE, the dispatch row of 40_frame_sync.md R100. -/
  | byte (b : Byte)
  /-- IDLE, 40_frame_sync.md R103. -/
  | idle
  /-- COLLECT_STORE, 40_frame_sync.md R104. -/
  | collectStore (b : Byte)
  /-- COLLECT_ACCEPT, 40_frame_sync.md R105. -/
  | collectAccept (b : Byte)
  /-- COLLECT_REJECT, 40_frame_sync.md R106. -/
  | collectReject (b : Byte)
  /-- HUNT_SKIP, 40_frame_sync.md R107. -/
  | huntSkip (b : Byte)
  /-- HUNT_END, 40_frame_sync.md R108. -/
  | huntEnd (b : Byte)
  /-- NB_STITLE, 41_nonce_builder.md R141. -/
  | nbStitle
  /-- NB_IC, 41_nonce_builder.md R142. -/
  | nbIc
  /-- NB_NONCE, 41_nonce_builder.md R143. -/
  | nbNonce
  /-- NB_CTEXT, 41_nonce_builder.md R144. -/
  | nbCtext
  /-- RD_CHECK, 42_record_decoder.md R161. -/
  | rdCheck
  /-- RD_DECODE, 42_record_decoder.md R162. -/
  | rdDecode
  /-- RD_YEAR, 42_record_decoder.md R163. -/
  | rdYear
  /-- RD_MONTH, 42_record_decoder.md R164. -/
  | rdMonth
  /-- RD_DAY, 42_record_decoder.md R165. -/
  | rdDay
  /-- RD_HOUR, 42_record_decoder.md R166. -/
  | rdHour
  /-- RD_MINUTE, 42_record_decoder.md R167. -/
  | rdMinute
  /-- RD_SECOND, 42_record_decoder.md R168. -/
  | rdSecond
  /-- RD_AEI, active energy in, 42_record_decoder.md R169. -/
  | rdAei
  /-- RD_AEO, active energy out, 42_record_decoder.md R170. -/
  | rdAeo
  /-- RD_REI, reactive energy in, 42_record_decoder.md R171. -/
  | rdRei
  /-- RD_REO, reactive energy out, 42_record_decoder.md R172. -/
  | rdReo
  /-- RD_API, active power in, 42_record_decoder.md R173. -/
  | rdApi
  /-- RD_APO, active power out, 42_record_decoder.md R174. -/
  | rdApo
  /-- RD_RPI, reactive power in, 42_record_decoder.md R175. -/
  | rdRpi
  /-- RD_RPO, reactive power out, 42_record_decoder.md R176. -/
  | rdRpo
  deriving DecidableEq, Repr

/-- The format of a row: a stream word or a combinational operation (30_encoding.md R70, R71). -/
inductive Format where
  | stream
  | comb
  deriving DecidableEq, Repr

/-- The format column of spec/opcode_table.json. -/
def Instr.format : Instr → Format
  | .reset | .fail | .byte _ | .idle => .stream
  | .collectStore _ | .collectAccept _ | .collectReject _ | .huntSkip _ | .huntEnd _ => .stream
  | .nbStitle | .nbIc | .nbNonce | .nbCtext => .comb
  | .rdCheck | .rdDecode => .comb
  | .rdYear | .rdMonth | .rdDay | .rdHour | .rdMinute | .rdSecond => .comb
  | .rdAei | .rdAeo | .rdRei | .rdReo | .rdApi | .rdApo | .rdRpi | .rdRpo => .comb

/-- The instruction a word decoder reads where a row is meant: a state-selected row is a BYTE word (the table's
note on rows R104 to R108); every other row stands for itself. -/
def Instr.wordForm : Instr → Instr
  | .collectStore b | .collectAccept b | .collectReject b | .huntSkip b | .huntEnd b => .byte b
  | .reset => .reset
  | .fail => .fail
  | .byte b => .byte b
  | .idle => .idle
  | .nbStitle => .nbStitle
  | .nbIc => .nbIc
  | .nbNonce => .nbNonce
  | .nbCtext => .nbCtext
  | .rdCheck => .rdCheck
  | .rdDecode => .rdDecode
  | .rdYear => .rdYear
  | .rdMonth => .rdMonth
  | .rdDay => .rdDay
  | .rdHour => .rdHour
  | .rdMinute => .rdMinute
  | .rdSecond => .rdSecond
  | .rdAei => .rdAei
  | .rdAeo => .rdAeo
  | .rdRei => .rdRei
  | .rdReo => .rdReo
  | .rdApi => .rdApi
  | .rdApo => .rdApo
  | .rdRpi => .rdRpi
  | .rdRpo => .rdRpo

end Sys2Proof
end

