-- ==== Sys2Proof/Config.lean ====
section
/-! DEFINITION. The build-time parameters of 00_scope.md R5: the fixed ones as constants, and the record a builder asks for. -/
namespace Sys2Proof.Config

/-- `MARKER`, first and last byte of a frame (R5). -/
def marker : Byte := 0x7E#8
/-- `FRAME_LEN`, bytes per frame (R5). -/
def frameLen : Nat := 105
/-- `ST_OFF`, offset of the system title in the frame (R5). -/
def stOff : Nat := 14
/-- `ST_LEN`, length of the system title (R5). -/
def stLen : Nat := 8
/-- `IC_OFF`, offset of the invocation counter in the frame (R5). -/
def icOff : Nat := 24
/-- `IC_LEN`, length of the invocation counter (R5). -/
def icLen : Nat := 4
/-- `NONCE_LEN`, length of the nonce (R5). -/
def nonceLen : Nat := 12
/-- `CT_OFF`, offset of the first ciphertext byte (R5). -/
def ctOff : Nat := 28
/-- `TRAIL_LEN`, trailing bytes excluded from the ciphertext (R5). -/
def trailLen : Nat := 3
/-- `CT_LEN`, length of the ciphertext, as R6 derives it. -/
def ctLen : Nat := frameLen - ctOff - trailLen
/-- `PAYLOAD_LEN`, length of the decrypted payload (R5). -/
def payloadLen : Nat := 74
/-- `PAYLOAD_TAG`, required first byte of the payload (R5). -/
def payloadTag : Byte := 0x0F#8

/-- The parameters a builder may ask for: every one of R5 that has a value or is OPEN as data. `Decrypt` and `KEY`
(OPEN, R219) belong to the external engine and are arguments of the reading path. -/
structure Params where
  marker : Byte
  frameLen : Nat
  stOff : Nat
  stLen : Nat
  icOff : Nat
  icLen : Nat
  nonceLen : Nat
  ctOff : Nat
  trailLen : Nat
  payloadLen : Nat
  payloadTag : Byte
  huntLimit : Option Nat
  authChecked : Bool
  deriving DecidableEq, Repr

/-- The names of the parameters, for the refusal of 00_scope.md R13 (3). -/
inductive Parameter where
  | marker | frameLen | stitlePosition | icPosition | nonceLen | ctOff | trailLen | payloadLen | payloadTag | huntLimit
  deriving DecidableEq, Repr

/-- The build this spec describes, for each value of the two parameters a model may take either way:
`HUNT_LIMIT` (R5, 90_conflicts.md C4) and `AUTH_CHECKED` (OPEN, 92_eei_decisions.md D14). -/
def params (limit : Option Nat) (auth : Bool) : Params :=
  { marker := marker, frameLen := frameLen, stOff := stOff, stLen := stLen, icOff := icOff, icLen := icLen,
    nonceLen := nonceLen, ctOff := ctOff, trailLen := trailLen, payloadLen := payloadLen, payloadTag := payloadTag,
    huntLimit := limit, authChecked := auth }

end Sys2Proof.Config
end

