-- ==== Sys2Proof/WellFormed.lean ====
section
/-! DEFINITION. Which operand a row of the opcode table admits: three state-selected rows fix or forbid the marker. -/
namespace Sys2Proof

/-- The operand is one the row's encoding admits: COLLECT_ACCEPT and HUNT_END are encoded with `b` = 0x7E
(40_frame_sync.md R105, R108), HUNT_SKIP is selected only by `b != MARKER` (R107); every other row admits any byte. -/
def Instr.wellFormed : Instr → Bool
  | .collectAccept b => b == Config.marker
  | .huntEnd b => b == Config.marker
  | .huntSkip b => b != Config.marker
  | .reset | .fail | .byte _ | .idle | .collectStore _ | .collectReject _ => true
  | .nbStitle | .nbIc | .nbNonce | .nbCtext => true
  | .rdCheck | .rdDecode => true
  | .rdYear | .rdMonth | .rdDay | .rdHour | .rdMinute | .rdSecond => true
  | .rdAei | .rdAeo | .rdRei | .rdReo | .rdApi | .rdApo | .rdRpi | .rdRpo => true

end Sys2Proof
end

