-- ==== Sys2Proof/Decode.lean ====
section
/-! DEFINITION. The decoder of stream words (30_encoding.md R72) and, after it, the encoder (R78). -/
namespace Sys2Proof

/-- The field `data = w[7:0]` (30_encoding.md R70, R73). -/
def dataField (w : StreamWord) : Byte := w.extractLsb' 0 8

/-- R72's table: the first row that matches, by mask and match. The fourth row is all that is left (R72: the four
patterns are disjoint and cover all 2048 words). -/
def decode (w : StreamWord) : Instr :=
  if w &&& 0x400#11 = 0x400#11 then .reset
  else if w &&& 0x600#11 = 0x200#11 then .fail
  else if w &&& 0x700#11 = 0x100#11 then .byte (dataField w)
  else .idle

/-- Why a number is not a stream word. -/
inductive DecodeError where
  /-- It needs more than the 11 bits of format STREAM (30_encoding.md R70: the format has one length). -/
  | widerThanStreamWord
  deriving DecidableEq, Repr

/-- Decode of any number: a stream word, or rejected by name. -/
def decodeNat (w : Nat) : Except DecodeError Instr :=
  if w < 2 ^ 11 then .ok (decode (BitVec.ofNat 11 w)) else .error .widerThanStreamWord

/-- What the decoder reads from an instruction whose bits are `w`, of which the opcode table gives `nbits`. A row of
no bits (format COMB) is selected by no word (30_encoding.md R71). -/
def decodeTableWord (nbits w : Nat) : Option Instr :=
  if nbits = 0 then none
  else
    match decodeNat (w % 2 ^ nbits) with
    | .ok i => some i
    | .error _ => none

/-- BYTE's canonical word, 0x100 + 0xHH (30_encoding.md R78). -/
def byteWord (b : Byte) : StreamWord := 0x100#11 ||| b.setWidth 11

/-- The canonical word of a row (30_encoding.md R78); a state-selected row has BYTE's encoding (R104 to R108); a COMB
row has none (R71). -/
def encode : Instr → Option StreamWord
  | .reset => some 0x400#11
  | .fail => some 0x200#11
  | .idle => some 0x000#11
  | .byte b => some (byteWord b)
  | .collectStore b => some (byteWord b)
  | .collectAccept b => some (byteWord b)
  | .collectReject b => some (byteWord b)
  | .huntSkip b => some (byteWord b)
  | .huntEnd b => some (byteWord b)
  | .nbStitle | .nbIc | .nbNonce | .nbCtext => none
  | .rdCheck | .rdDecode => none
  | .rdYear | .rdMonth | .rdDay | .rdHour | .rdMinute | .rdSecond => none
  | .rdAei | .rdAeo | .rdRei | .rdReo | .rdApi | .rdApo | .rdRpi | .rdRpo => none

/-- The `mask` and `match` columns of spec/opcode_table.json for a row of format STREAM. -/
def tablePattern : Instr → Option (StreamWord × StreamWord)
  | .reset => some (0x400#11, 0x400#11)
  | .fail => some (0x600#11, 0x200#11)
  | .byte _ => some (0x700#11, 0x100#11)
  | .idle => some (0x700#11, 0x000#11)
  | .collectStore _ => some (0x700#11, 0x100#11)
  | .collectAccept _ => some (0x7FF#11, 0x17E#11)
  | .collectReject _ => some (0x700#11, 0x100#11)
  | .huntSkip _ => some (0x700#11, 0x100#11)
  | .huntEnd _ => some (0x7FF#11, 0x17E#11)
  | .nbStitle | .nbIc | .nbNonce | .nbCtext => none
  | .rdCheck | .rdDecode => none
  | .rdYear | .rdMonth | .rdDay | .rdHour | .rdMinute | .rdSecond => none
  | .rdAei | .rdAeo | .rdRei | .rdReo | .rdApi | .rdApo | .rdRpi | .rdRpo => none

end Sys2Proof
end

