-- ==== Sys2Proof/Machine/State.lean ====
section
/-! DEFINITION. Every piece of state and every port the spec gives the block, as plain data, with the state after
RESET and the power-on state. -/
namespace Sys2Proof.Machine

/-- The byte array of a space (20_memory.md R50): cells of (index, byte), indices strictly rising. An entry that is
not listed holds `NONE` (00_scope.md R11). -/
abbrev Memory := List Host.Cell

/-- The byte spaces held in arrays (20_memory.md R50): CAND is `fs_buf`, FRAME is `last_frame`, PAYLOAD is `rd_pl`. -/
inductive Space where
  | cand
  | frame
  | payload
  deriving DecidableEq, Repr

/-- `fs_mode` (10_state.md R21). -/
inductive FsMode where
  | collect
  | hunt
  deriving DecidableEq, Repr

/-- The 1-bit encoding of `fs_mode` (10_state.md R20, R21). -/
def FsMode.code : FsMode → BitVec 1
  | .collect => 0#1
  | .hunt => 1#1

/-- `rd_cause` (10_state.md R30, 42_record_decoder.md R161); `noCause` is the spec's NONE, a check that passes. -/
inductive RdCause where
  | noCause
  | len
  | tag
  | auth
  deriving DecidableEq, Repr

/-- The 2-bit encoding of `rd_cause` (10_state.md R30). -/
def RdCause.code : RdCause → BitVec 2
  | .noCause => 0#2
  | .len => 1#2
  | .tag => 2#2
  | .auth => 3#2

/-- The events of 60_exceptions.md R200. -/
inductive Event where
  /-- Code 1, raised by a FAIL word (R201). -/
  | connectionError
  /-- Code 2, raised by a rejected candidate; not surfaced (R202). -/
  | framingDesync
  /-- Code 3, raised when the discarded bytes reach `HUNT_LIMIT` (R203). -/
  | framingDesyncTimeout
  /-- Code 4, raised by a failing RD_CHECK, with its cause (R204). -/
  | decryptionError (cause : RdCause)
  /-- Code 5, raised by the host's configuration and never by the block (R205). -/
  | configurationError
  deriving DecidableEq, Repr

/-- The event codes of 60_exceptions.md R200 (labels of the spec, no hardware meaning: 92_eei_decisions.md D21). -/
def Event.code : Event → Nat
  | .connectionError => 1
  | .framingDesync => 2
  | .framingDesyncTimeout => 3
  | .decryptionError _ => 4
  | .configurationError => 5

/-- The operations a BYTE word can select (40_frame_sync.md R100). -/
inductive ByteOp where
  | collectStore
  | collectAccept
  | collectReject
  | huntSkip
  | huntEnd
  deriving DecidableEq, Repr

/-- Ports that may hold no value (41_nonce_builder.md R147, 10_state.md R30). -/
inductive Port where
  | nbStitle | nbIc | nbNonce | nbCt
  | rdYear | rdMonth | rdDay | rdHour | rdMinute | rdSecond
  | rdAei | rdAeo | rdRei | rdReo | rdApi | rdApo | rdRpi | rdRpo
  deriving DecidableEq, Repr

/-- State elements a rule may find holding `NONE` (00_scope.md R13). -/
inductive Element where
  | fsMode
  | fsCount
  | fsDisc
  | lastValid
  | entry (sp : Space) (i : Nat)
  deriving DecidableEq, Repr

/-- What the outside agents may do to the block, one at a time (60_exceptions.md section 4). -/
inductive Input where
  /-- The transport sends a stream word (R216). -/
  | word (w : StreamWord)
  /-- The external engine presents its result `(plain, auth_ok)` on RD's input ports (R219). -/
  | engine (plain : List Byte) (authOk : Bool)
  /-- The host evaluates one combinational operation and reads its port (R217, 30_encoding.md R71). -/
  | evaluate (op : Instr)
  deriving DecidableEq, Repr

/-- The build parameters that are not fixed by 00_scope.md R5. No step writes them (10_state.md R35). -/
structure Build where
  /-- `HUNT_LIMIT`. -/
  huntLimit : Option Nat
  /-- `AUTH_CHECKED`. -/
  authChecked : Bool
  deriving DecidableEq, Repr

/-- FS's own registers (10_state.md R20). `none` is the spec's `NONE`: not written since power-on
(70_reset_and_hazards.md R230). -/
structure FsRegs where
  /-- `fs_mode` (R21). -/
  mode : Option FsMode
  /-- `fs_count` (R22). -/
  count : Option (BitVec 7)
  /-- `fs_buf` (R23). -/
  buf : Memory
  /-- `fs_disc` (R24). -/
  disc : Option Nat
  deriving DecidableEq, Repr

/-- The last accepted frame (10_state.md R27, R28). -/
structure FrameReg where
  /-- `last_frame`. -/
  bytes : Memory
  /-- `last_valid`. -/
  valid : Option Bool
  deriving DecidableEq, Repr

/-- The output pulses of FS in the latest step (10_state.md R26). -/
structure Pulses where
  frameDone : Bool
  connErr : Bool
  desyncErr : Bool
  deriving DecidableEq, Repr

/-- NB's output ports (10_state.md R29); `none`: the port holds no value (41_nonce_builder.md R147). -/
structure NbPorts where
  valid : Option Bool
  stitle : Option (List Byte)
  ic : Option (List Byte)
  nonce : Option (List Byte)
  ct : Option (List Byte)
  deriving DecidableEq, Repr

/-- RD's input ports (10_state.md R30). -/
structure RdInputs where
  /-- `rd_len`. -/
  len : BitVec 8
  /-- `rd_pl`. -/
  pl : Memory
  /-- `rd_auth_fail`. -/
  authFail : Bool
  deriving DecidableEq, Repr

/-- RD's output ports (10_state.md R30); a field that is `none` holds no value. -/
structure RdPorts where
  ok : Bool
  err : Bool
  cause : RdCause
  year : Option (BitVec 16)
  month : Option Byte
  day : Option Byte
  hour : Option Byte
  minute : Option Byte
  second : Option Byte
  aei : Option (BitVec 32)
  aeo : Option (BitVec 32)
  rei : Option (BitVec 32)
  reo : Option (BitVec 32)
  api : Option (BitVec 32)
  apo : Option (BitVec 32)
  rpi : Option (BitVec 32)
  rpo : Option (BitVec 32)
  deriving DecidableEq, Repr

/-- The reading record of 42_record_decoder.md R162. -/
structure Reading where
  year : BitVec 16
  month : Byte
  day : Byte
  hour : Byte
  minute : Byte
  second : Byte
  activeEnergyIn : BitVec 32
  activeEnergyOut : BitVec 32
  reactiveEnergyIn : BitVec 32
  reactiveEnergyOut : BitVec 32
  activePowerIn : BitVec 32
  activePowerOut : BitVec 32
  reactivePowerIn : BitVec 32
  reactivePowerOut : BitVec 32
  deriving DecidableEq, Repr

/-- The block with its ports and what its outside agents still have to do. -/
structure State where
  /-- Build parameters (00_scope.md R5). -/
  build : Build
  /-- `fs_mode`, `fs_count`, `fs_buf`, `fs_disc` (10_state.md R20). -/
  fs : FsRegs
  /-- `last_frame`, `last_valid` (10_state.md R20). -/
  last : FrameReg
  /-- `frame_done`, `conn_err`, `desync_err` (10_state.md R26). -/
  pulses : Pulses
  /-- The events FS raised in the latest step (60_exceptions.md R200). The model's own field: FramingDesync has no
  pulse (R202), and a rejection that reaches `HUNT_LIMIT` lists two. DESIGN CHOICE, log 14. -/
  fsEvents : List Event
  /-- NB's output ports (10_state.md R29). -/
  nb : NbPorts
  /-- RD's input ports (10_state.md R30). -/
  rdIn : RdInputs
  /-- RD's output ports (10_state.md R30). -/
  rd : RdPorts
  /-- What the transport, the engine and the host do next, oldest first. The model's own field. DESIGN CHOICE, log 1. -/
  input : List Input
  deriving DecidableEq, Repr

/-- Why a step stops with a fault. -/
inductive Fault where
  /-- A rule reads an element or entry that holds `NONE` (00_scope.md R13 (2)). Raised by a BYTE word before the first
  RESET (70_reset_and_hazards.md R230) and by any read of an unwritten entry. Safe: the spec names this fault. -/
  | readNone (e : Element)
  /-- The host reads an NB port while `last_valid` is not 1 (41_nonce_builder.md R147) or an RD field port while
  `rd_ok` = 0 (70_reset_and_hazards.md R235). Safe: the spec names this fault. -/
  | portHoldsNoValue (p : Port)
  /-- An index outside a byte space; no rule forms one (20_memory.md R50). Safe. -/
  | outsideSpace (sp : Space) (i : Nat)
  deriving DecidableEq, Repr

/-- Why a step is refused. -/
inductive Refusal where
  /-- Raised by a refused arm of exec only; no arm is left refused. Safe. -/
  | notModelled (mnemonic : String)
  /-- Raised by a state-selected row (40_frame_sync.md R104 to R108) asked for by itself in a state in which R100
  selects another row. No word can ask for that. Safe. DESIGN CHOICE, log 7. -/
  | notSelected
  /-- Raised by `step` where the host is said to evaluate a row that is no combinational operation; only words select
  those (30_encoding.md R71, R72). Safe. DESIGN CHOICE, log 9. -/
  | notAPortOperation
  /-- Raised by `buildBlock` for a parameter value the spec does not fix (00_scope.md R13 (3), R5). Safe. -/
  | unsupportedParameter (p : Config.Parameter)
  deriving DecidableEq, Repr

/-- NB's ports while there is no frame (41_nonce_builder.md R147). -/
def NbPorts.noFrame (valid : Option Bool) : NbPorts :=
  { valid := valid, stitle := none, ic := none, nonce := none, ct := none }

/-- RD's output ports for a failed check with this cause: no field has a value (42_record_decoder.md R162). -/
def RdPorts.failed (cause : RdCause) : RdPorts :=
  { ok := false, err := true, cause := cause, year := none, month := none, day := none, hour := none, minute := none,
    second := none, aei := none, aeo := none, rei := none, reo := none, api := none, apo := none, rpi := none,
    rpo := none }

/-- The machine right after a RESET word: the reset column of 10_state.md R20 (40_frame_sync.md R101), every pulse 0,
no frame for NB. RD's input ports have no reset value in the spec: the engine has presented nothing, which R161's
corner case presents as `rd_len` = 0 (DESIGN CHOICE, log 4). `HUNT_LIMIT` = none is R5's value; `AUTH_CHECKED` is OPEN
(DESIGN CHOICE, log 6). -/
def State.reset : State :=
  { build := { huntLimit := none, authChecked := true }
    fs := { mode := some .collect, count := some 0#7, buf := [], disc := some 0 }
    last := { bytes := [], valid := some false }
    pulses := { frameDone := false, connErr := false, desyncErr := false }
    fsEvents := []
    nb := NbPorts.noFrame (some false)
    rdIn := { len := 0#8, pl := [], authFail := false }
    rd := RdPorts.failed .len
    input := [] }

/-- The power-on state, before the first RESET: every element of 10_state.md R20 holds `NONE`
(70_reset_and_hazards.md R230). -/
def State.powerOn (b : Build) : State :=
  { State.reset with
    build := b
    fs := { mode := none, count := none, buf := [], disc := none }
    last := { bytes := [], valid := none }
    nb := NbPorts.noFrame none }

end Sys2Proof.Machine
end

