-- ==== Sys2Proof/Machine/Flags.lean ====
section
/-! DEFINITION. Every test the spec computes: the marker test, the count test, the limit test and RD's shape check. -/
namespace Sys2Proof.Machine

/-- `b == MARKER`, an equality of 8-bit values (40_frame_sync.md R117 (c)). -/
def isMarker (b : Byte) : Bool := b == Config.marker

/-- `fs_count < 104`: the candidate still lacks a byte other than its last (40_frame_sync.md R104). -/
def beforeLastByte (c : BitVec 7) : Bool := decide (c.toNat < Config.frameLen - 1)

/-- R109's test `fs_disc + k >= N`, on exact unsigned integers (40_frame_sync.md R117 (b)). -/
def limitReached (n disc k : Nat) : Bool := decide (n ≤ disc + k)

/-- `check(A, L, P)` of 42_record_decoder.md R161. `p0` is the read of `P[0]`, used only when the length test
passes. -/
def shapeCheck (authFail : Bool) (len : BitVec 8) (p0 : Except Fault Byte) : Except Fault RdCause :=
  if authFail then .ok .auth
  else if len.toNat ≠ Config.payloadLen then .ok .len
  else
    match p0 with
    | .error f => .error f
    | .ok b => if b ≠ Config.payloadTag then .ok .tag else .ok .noCause

end Sys2Proof.Machine
end

