-- ==== Sys2Proof/Machine/Ops.lean ====
section
/-! DEFINITION. The named operations over byte spaces and registers, the events of 60_exceptions.md R200 and
`discard` (40_frame_sync.md R109). -/
namespace Sys2Proof.Machine

/-- What a meaning answers. -/
abbrev Result := Host.Outcome State Fault Refusal

/-- Go on with a value that was read, or stop with the fault of the read (00_scope.md R13). -/
def withValue {α : Type} (r : Except Fault α) (k : α → Result) : Result :=
  match r with
  | .ok v => k v
  | .error f => .fault f

/-! ## Byte spaces (20_memory.md R50) -/

/-- What an entry that is not listed reads as: `NONE` (00_scope.md R11). -/
def Memory.unlisted : Option Byte := none

/-- `A[i]`: the byte at index i, or `NONE`. -/
def Memory.read : Memory → Nat → Option Byte
  | [], _ => Memory.unlisted
  | (k, b) :: m, i => if i = k then some b else Memory.read m i

/-- `A[i] <- v`, keeping the indices strictly rising. -/
def Memory.write : Memory → Nat → Byte → Memory
  | [], i, v => [(i, v)]
  | (k, b) :: m, i, v =>
    if i < k then (i, v) :: (k, b) :: m
    else if i = k then (i, v) :: m
    else (k, b) :: Memory.write m i v

/-- `MemWrite(A, i, n, v)`: the bytes of `v` to `A[i..i+n-1]` (00_scope.md R11). -/
def Memory.writeBytes : Memory → Nat → List Byte → Memory
  | m, _, [] => m
  | m, i, b :: bs => Memory.writeBytes (m.write i b) (i + 1) bs

/-- Every entry `NONE` (20_memory.md R66 (c)). -/
def Memory.invalidated : Memory := []

/-- Indices strictly rising from `lo` and below `size`. -/
def Memory.wfFrom (size : Nat) : Nat → Memory → Bool
  | _, [] => true
  | lo, (k, _) :: m => decide (lo ≤ k) && decide (k < size) && Memory.wfFrom size (k + 1) m

/-- The canonical form of a space of `size` entries: each listed once, in rising order, none outside the space.
(No listed byte can equal what an unlisted entry reads as, which is no byte.) -/
def Memory.wf (size : Nat) (m : Memory) : Bool := Memory.wfFrom size 0 m

/-- The number of entries of a space (20_memory.md R50). -/
def spaceSize : Space → Nat
  | .cand => Config.frameLen
  | .frame => Config.frameLen
  | .payload => Config.payloadLen

/-- The array that holds a space (20_memory.md R50). -/
def spaceOf (sp : Space) (s : State) : Memory :=
  match sp with
  | .cand => s.fs.buf
  | .frame => s.last.bytes
  | .payload => s.rdIn.pl

/-- The model's read of one byte: `A[i]`, a fault where it holds `NONE` (00_scope.md R13). -/
def readByte (sp : Space) (i : Nat) (s : State) : Except Fault Byte :=
  if i < spaceSize sp then
    match (spaceOf sp s).read i with
    | some b => .ok b
    | none => .error (.readNone (.entry sp i))
  else .error (.outsideSpace sp i)

/-- `MemRead(A, i, n)` (00_scope.md R11). -/
def readBytes (sp : Space) (s : State) : Nat → Nat → Except Fault (List Byte)
  | _, 0 => .ok []
  | i, n + 1 =>
    match readByte sp i s with
    | .error f => .error f
    | .ok b =>
      match readBytes sp s (i + 1) n with
      | .error f => .error f
      | .ok bs => .ok (b :: bs)

/-! ## Events (60_exceptions.md R200)

The block has no trap entry (R208) and no return from one (R209): an event changes exactly the state its rule names,
and the next word is processed like any other. Raising an event is one operation, which drives what R200 says surfaces
it; there is no operation beside it that returns. -/

/-- `raise E(info)` (00_scope.md R11) with the surfacing of 60_exceptions.md R200: a pulse for FS's surfaced events,
RD's error ports for a DecryptionError, nothing for FramingDesync (R202) and for the host's ConfigurationError (R205). -/
def raiseEvent (e : Event) (s : State) : State :=
  match e with
  | .connectionError =>
    { s with pulses := { s.pulses with connErr := true }, fsEvents := s.fsEvents ++ [.connectionError] }
  | .framingDesync => { s with fsEvents := s.fsEvents ++ [.framingDesync] }
  | .framingDesyncTimeout =>
    { s with pulses := { s.pulses with desyncErr := true }, fsEvents := s.fsEvents ++ [.framingDesyncTimeout] }
  | .decryptionError c => { s with rd := RdPorts.failed c }
  | .configurationError => s

/-- The events surfaced or raised in the state: FS's of the latest step, and RD's DecryptionError for as long as RD's
inputs stay the same (60_exceptions.md R200). -/
def raisedEvents (s : State) : List Event :=
  s.fsEvents ++ (if s.rd.err then [.decryptionError s.rd.cause] else [])

/-! ## Operations of FS -/

/-- The first line of `fs_step`: every pulse is 0 unless the step emits it (40_frame_sync.md R100). -/
def beginStep (s : State) : State :=
  { s with pulses := { frameDone := false, connErr := false, desyncErr := false }, fsEvents := [] }

/-- `emit frame_done` (10_state.md R26). -/
def emitFrameDone (s : State) : State := { s with pulses := { s.pulses with frameDone := true } }

/-- `fs_count <- 0; fs_buf[0..104] <- NONE` (40_frame_sync.md R101, R102, R105, R106). -/
def dropCandidate (s : State) : State :=
  { s with fs := { s.fs with count := some 0#7, buf := Memory.invalidated } }

/-- `fs_buf[c] <- b; fs_count <- c + 1` (40_frame_sync.md R104). -/
def storeCandidate (c : BitVec 7) (b : Byte) (s : State) : State :=
  { s with fs := { s.fs with count := some (c + 1#7), buf := s.fs.buf.write c.toNat b } }

/-- `fs_mode <- m`. -/
def setMode (m : FsMode) (s : State) : State := { s with fs := { s.fs with mode := some m } }

/-- `fs_disc <- d`. -/
def setDisc (d : Nat) (s : State) : State := { s with fs := { s.fs with disc := some d } }

/-- `last_frame[0..104] <- bytes; last_valid <- 1` (40_frame_sync.md R105). -/
def setLastFrame (bytes : List Byte) (s : State) : State :=
  { s with last := { bytes := s.last.bytes.writeBytes 0 bytes, valid := some true } }

/-- `last_frame[0..104] <- NONE; last_valid <- 0` (40_frame_sync.md R101). -/
def clearLastFrame (s : State) : State :=
  { s with last := { bytes := Memory.invalidated, valid := some false } }

/-- `discard(k, next)` (40_frame_sync.md R109). The timeout takes priority over `next`. -/
def discardBytes (k : Nat) (next : FsMode) (s : State) : Except Fault State :=
  match s.build.huntLimit with
  | none => .ok (setMode next s)
  | some n =>
    match s.fs.disc with
    | none => .error (.readNone .fsDisc)
    | some d =>
      if limitReached n d k then
        .ok (raiseEvent .framingDesyncTimeout
          { s with fs := { s.fs with disc := some 0, mode := some .collect, count := some 0#7 } })
      else .ok (setMode next (setDisc (d + k) s))

/-- The selection of a BYTE step, in the order of `fs_step` (40_frame_sync.md R100). -/
def selectByteOp (b : Byte) (s : State) : Except Fault ByteOp :=
  match s.fs.mode with
  | none => .error (.readNone .fsMode)
  | some .hunt => if isMarker b then .ok .huntEnd else .ok .huntSkip
  | some .collect =>
    match s.fs.count with
    | none => .error (.readNone .fsCount)
    | some c =>
      if beforeLastByte c then .ok .collectStore
      else
        match readByte .cand 0 s with
        | .error f => .error f
        | .ok b0 => if isMarker b0 && isMarker b then .ok .collectAccept else .ok .collectReject

/-- A state-selected row runs where R100 selects it. Where R100 selects another row the spec gives it no effect
(DESIGN CHOICE, log 7). -/
def whenSelected (op : ByteOp) (b : Byte) (s : State) (k : Result) : Result :=
  withValue (selectByteOp b s) fun o => if o = op then k else .refused .notSelected

/-! ## The transport's and the host's actions -/

/-- The next action of an outside agent, and the state in which it is carried out. -/
def fetch (s : State) : Option (Input × State) :=
  match s.input with
  | [] => none
  | i :: rest => some (i, { s with input := rest })

/-- The transport sends `w` next, before everything that is pending. -/
def placeWord (w : StreamWord) (s : State) : State := { s with input := .word w :: s.input }

end Sys2Proof.Machine
end

