-- ==== Sys2Proof/Machine/Operands.lean ====
section
/-! DEFINITION. Every operand form: the byte and big-endian reads of 00_scope.md R10 and the constant slices of
30_encoding.md R71. -/
namespace Sys2Proof.Machine

/-- `A[o]*2^8 + A[o+1]` (00_scope.md R10), in 16 bits; the sum is below 2^16. -/
def be16 (a0 a1 : Byte) : BitVec 16 := BitVec.ofNat 16 (a0.toNat * 2 ^ 8 + a1.toNat)

/-- `A[o]*2^24 + A[o+1]*2^16 + A[o+2]*2^8 + A[o+3]` (00_scope.md R10), in 32 bits; the sum is below 2^32. -/
def be32 (a0 a1 a2 a3 : Byte) : BitVec 32 :=
  BitVec.ofNat 32 (a0.toNat * 2 ^ 24 + a1.toNat * 2 ^ 16 + a2.toNat * 2 ^ 8 + a3.toNat)

/-- `u8(P, o)` on the payload (00_scope.md R10). -/
def payloadU8 (o : Nat) (s : State) : Except Fault Byte := readByte .payload o s

/-- `be16(P, o)` on the payload (00_scope.md R10). -/
def payloadBe16 (o : Nat) (s : State) : Except Fault (BitVec 16) :=
  match readByte .payload o s, readByte .payload (o + 1) s with
  | .ok a0, .ok a1 => .ok (be16 a0 a1)
  | .error f, _ => .error f
  | _, .error f => .error f

/-- `be32(P, o)` on the payload (00_scope.md R10). -/
def payloadBe32 (o : Nat) (s : State) : Except Fault (BitVec 32) :=
  match readByte .payload o s, readByte .payload (o + 1) s, readByte .payload (o + 2) s,
    readByte .payload (o + 3) s with
  | .ok a0, .ok a1, .ok a2, .ok a3 => .ok (be32 a0 a1 a2 a3)
  | .error f, _, _, _ => .error f
  | _, .error f, _, _ => .error f
  | _, _, .error f, _ => .error f
  | _, _, _, .error f => .error f

/-- A slice of `last_frame` for the port `p`: it has a value only while `last_valid` = 1 (41_nonce_builder.md
R147). -/
def frameSlice (p : Port) (off len : Nat) (s : State) : Except Fault (List Byte) :=
  match s.last.valid with
  | none => .error (.readNone .lastValid)
  | some false => .error (.portHoldsNoValue p)
  | some true => readBytes .frame s off len

/-- `stitle(last_frame)` (41_nonce_builder.md R141). -/
def nbStitleValue (s : State) : Except Fault (List Byte) := frameSlice .nbStitle Config.stOff Config.stLen s

/-- `ic(last_frame)` (41_nonce_builder.md R142). -/
def nbIcValue (s : State) : Except Fault (List Byte) := frameSlice .nbIc Config.icOff Config.icLen s

/-- `nonce(last_frame)`, the system title first (41_nonce_builder.md R143). -/
def nbNonceValue (s : State) : Except Fault (List Byte) :=
  match frameSlice .nbNonce Config.stOff Config.stLen s, frameSlice .nbNonce Config.icOff Config.icLen s with
  | .ok st, .ok ic => .ok (st ++ ic)
  | .error f, _ => .error f
  | _, .error f => .error f

/-- `ct(last_frame)` (41_nonce_builder.md R144). -/
def nbCtValue (s : State) : Except Fault (List Byte) := frameSlice .nbCt Config.ctOff Config.ctLen s

/-- The value a port carries: none where its function has no value. -/
def portValue {α : Type} (r : Except Fault α) : Option α :=
  match r with
  | .ok v => some v
  | .error _ => none

/-- NB's ports as functions of `last_frame` and `last_valid` (10_state.md R29, 41_nonce_builder.md R147). -/
def nbPortsOf (s : State) : NbPorts :=
  { valid := s.last.valid
    stitle := portValue (nbStitleValue s)
    ic := portValue (nbIcValue s)
    nonce := portValue (nbNonceValue s)
    ct := portValue (nbCtValue s) }

/-- After every step NB's outputs are the functions of the `last_frame` of that state (41_nonce_builder.md R140). -/
def settleNb (s : State) : State := { s with nb := nbPortsOf s }

/-- RD_CHECK's result on RD's current inputs (42_record_decoder.md R161). -/
def rdCheckOf (s : State) : Except Fault RdCause :=
  shapeCheck s.rdIn.authFail s.rdIn.len (readByte .payload 0 s)

/-- `rd_ok <- 1; rd_err <- 0; rd_cause <- 0` (42_record_decoder.md R161). -/
def driveCheckOk (s : State) : State :=
  { s with rd := { s.rd with ok := true, err := false, cause := .noCause } }

end Sys2Proof.Machine
end

