-- ==== Sys2Proof/Machine/FrameSync.lean ====
section
/-! DEFINITION. The operations of FS (40_frame_sync.md R100 to R109). Each clears the pulses of the step before
(R100), and at its end NB's ports follow `last_frame` (41_nonce_builder.md R140). -/
namespace Sys2Proof.Machine

/-- RESET (R101). -/
def execReset (s : State) : Result :=
  .next (settleNb (clearLastFrame (setDisc 0 (dropCandidate (setMode .collect (beginStep s))))))

/-- FAIL (R102): `last_frame` and `last_valid` are kept. -/
def execFail (s : State) : Result :=
  .next (settleNb (setDisc 0 (dropCandidate (setMode .collect (raiseEvent .connectionError (beginStep s))))))

/-- IDLE (R103): no state changes, all pulses 0. -/
def execIdle (s : State) : Result := .next (settleNb (beginStep s))

/-- COLLECT_STORE (R104). -/
def execCollectStore (b : Byte) (s : State) : Result :=
  whenSelected .collectStore b s <|
    match s.fs.count with
    | none => .fault (.readNone .fsCount)
    | some c => .next (settleNb (storeCandidate c b (beginStep s)))

/-- COLLECT_ACCEPT (R105): `last_frame[0..103] <- fs_buf[0..103]; last_frame[104] <- b`. -/
def execCollectAccept (b : Byte) (s : State) : Result :=
  whenSelected .collectAccept b s <|
    withValue (readBytes .cand s 0 (Config.frameLen - 1)) fun bytes =>
      .next (settleNb (setDisc 0 (dropCandidate (emitFrameDone (setLastFrame (bytes ++ [b]) (beginStep s))))))

/-- COLLECT_REJECT (R106): the whole candidate of `FRAME_LEN` bytes is discarded. Where the rejection reaches
`HUNT_LIMIT`, R106 raises FramingDesync and its `discard` FramingDesync-timeout (R109), while 60_exceptions.md R207
speaks of one event at most per step: the model lists both, FramingDesync first (DESIGN CHOICE, log 14). -/
def execCollectReject (b : Byte) (s : State) : Result :=
  whenSelected .collectReject b s <|
    withValue (discardBytes Config.frameLen .hunt (raiseEvent .framingDesync (dropCandidate (beginStep s)))) fun t =>
      .next (settleNb t)

/-- HUNT_SKIP (R107). -/
def execHuntSkip (b : Byte) (s : State) : Result :=
  whenSelected .huntSkip b s <|
    withValue (discardBytes 1 .hunt (beginStep s)) fun t => .next (settleNb t)

/-- HUNT_END (R108): the marker is not stored. -/
def execHuntEnd (b : Byte) (s : State) : Result :=
  whenSelected .huntEnd b s <|
    withValue (discardBytes 1 .collect (beginStep s)) fun t => .next (settleNb t)

/-- BYTE (R100): the operation the state and the byte select. -/
def execByte (b : Byte) (s : State) : Result :=
  withValue (selectByteOp b s) fun op =>
    match op with
    | .collectStore => execCollectStore b s
    | .collectAccept => execCollectAccept b s
    | .collectReject => execCollectReject b s
    | .huntSkip => execHuntSkip b s
    | .huntEnd => execHuntEnd b s

end Sys2Proof.Machine
end

