-- ==== Sys2Proof/Machine/NonceBuilder.lean ====
section
/-! DEFINITION. The operations of NB (41_nonce_builder.md R141 to R144). Evaluating one reads its port: it faults
while the port holds no value (R147), and changes no state but the port (20_memory.md R58). -/
namespace Sys2Proof.Machine

/-- NB_STITLE (R141): `nb_stitle <- stitle(last_frame)`. -/
def execNbStitle (s : State) : Result :=
  withValue (nbStitleValue s) fun v => .next { s with nb := { s.nb with stitle := some v } }

/-- NB_IC (R142): `nb_ic <- ic(last_frame)`. -/
def execNbIc (s : State) : Result :=
  withValue (nbIcValue s) fun v => .next { s with nb := { s.nb with ic := some v } }

/-- NB_NONCE (R143): `nb_nonce <- nonce(last_frame)`. -/
def execNbNonce (s : State) : Result :=
  withValue (nbNonceValue s) fun v => .next { s with nb := { s.nb with nonce := some v } }

/-- NB_CTEXT (R144): `nb_ct <- ct(last_frame)`. -/
def execNbCtext (s : State) : Result :=
  withValue (nbCtValue s) fun v => .next { s with nb := { s.nb with ct := some v } }

end Sys2Proof.Machine
end

