-- ==== Sys2Proof/Machine/RecordDecoder.lean ====
section
/-! DEFINITION. The operations of RD (42_record_decoder.md R161 to R176) on RD's current input ports. -/
namespace Sys2Proof.Machine

/-- RD_CHECK (R161). A failing check raises DecryptionError with its cause (60_exceptions.md R204), and the field ports
then hold no value (10_state.md R30). -/
def execRdCheck (s : State) : Result :=
  withValue (rdCheckOf s) fun c =>
    match c with
    | .noCause => .next (driveCheckOk s)
    | .len => .next (raiseEvent (.decryptionError .len) s)
    | .tag => .next (raiseEvent (.decryptionError .tag) s)
    | .auth => .next (raiseEvent (.decryptionError .auth) s)

/-- The timestamp fields in R162's order: year, month, day, hour, minute, second. -/
def readTimestamp (s : State) : Except Fault (BitVec 16 × Byte × Byte × Byte × Byte × Byte) :=
  match payloadBe16 22 s, payloadU8 24 s, payloadU8 25 s, payloadU8 27 s, payloadU8 28 s, payloadU8 29 s with
  | .ok y, .ok mo, .ok d, .ok h, .ok mi, .ok sec => .ok (y, mo, d, h, mi, sec)
  | .error f, _, _, _, _, _ => .error f
  | _, .error f, _, _, _, _ => .error f
  | _, _, .error f, _, _, _ => .error f
  | _, _, _, .error f, _, _ => .error f
  | _, _, _, _, .error f, _ => .error f
  | _, _, _, _, _, .error f => .error f

/-- Four consecutive quantities of a family, five bytes apart (20_memory.md R55). -/
def readQuantities (o : Nat) (s : State) : Except Fault (BitVec 32 × BitVec 32 × BitVec 32 × BitVec 32) :=
  match payloadBe32 o s, payloadBe32 (o + 5) s, payloadBe32 (o + 10) s, payloadBe32 (o + 15) s with
  | .ok q0, .ok q1, .ok q2, .ok q3 => .ok (q0, q1, q2, q3)
  | .error f, _, _, _ => .error f
  | _, .error f, _, _ => .error f
  | _, _, .error f, _ => .error f
  | _, _, _, .error f => .error f

/-- The reading record of R162, read from the payload. -/
def readReading (s : State) : Except Fault Reading :=
  match readTimestamp s, readQuantities 35 s, readQuantities 55 s with
  | .ok (y, mo, d, h, mi, sec), .ok (e0, e1, e2, e3), .ok (p0, p1, p2, p3) =>
    .ok { year := y, month := mo, day := d, hour := h, minute := mi, second := sec,
          activeEnergyIn := e0, activeEnergyOut := e1, reactiveEnergyIn := e2, reactiveEnergyOut := e3,
          activePowerIn := p0, activePowerOut := p1, reactivePowerIn := p2, reactivePowerOut := p3 }
  | .error f, _, _ => .error f
  | _, .error f, _ => .error f
  | _, _, .error f => .error f

/-- `decode(A, L, P)` (R162): a fault of the model, a DecryptionError with its cause, or a reading. -/
def decodePayload (s : State) : Except Fault (Except RdCause Reading) :=
  match rdCheckOf s with
  | .error f => .error f
  | .ok .noCause =>
    match readReading s with
    | .error f => .error f
    | .ok r => .ok (.ok r)
  | .ok .len => .ok (.error .len)
  | .ok .tag => .ok (.error .tag)
  | .ok .auth => .ok (.error .auth)

/-- RD's output ports while the check passes and the reading is `r` (10_state.md R30, R161, R162). -/
def readingPorts (r : Reading) : RdPorts :=
  { ok := true, err := false, cause := .noCause,
    year := some r.year, month := some r.month, day := some r.day,
    hour := some r.hour, minute := some r.minute, second := some r.second,
    aei := some r.activeEnergyIn, aeo := some r.activeEnergyOut,
    rei := some r.reactiveEnergyIn, reo := some r.reactiveEnergyOut,
    api := some r.activePowerIn, apo := some r.activePowerOut,
    rpi := some r.reactivePowerIn, rpo := some r.reactivePowerOut }

/-- RD_DECODE (R162): the reading ports hold the record while the check passes; a failing check raises DecryptionError
and no field has a value. Either way the check ports carry RD_CHECK's result, which is how the outcome is surfaced
(60_exceptions.md R200). -/
def execRdDecode (s : State) : Result :=
  withValue (decodePayload s) fun d =>
    match d with
    | .ok r => .next { s with rd := readingPorts r }
    | .error c => .next (raiseEvent (.decryptionError c) s)

/-- One field rule (R163 to R176): it applies only when RD_CHECK passes; reading the port otherwise faults
(70_reset_and_hazards.md R235). -/
def readField {α : Type} (p : Port) (v : Except Fault α) (put : α → State) (s : State) : Result :=
  withValue (rdCheckOf s) fun c =>
    match c with
    | .noCause => withValue v fun x => .next (put x)
    | .len => .fault (.portHoldsNoValue p)
    | .tag => .fault (.portHoldsNoValue p)
    | .auth => .fault (.portHoldsNoValue p)

/-- RD_YEAR (R163). -/
def execRdYear (s : State) : Result :=
  readField .rdYear (payloadBe16 22 s) (fun v => { s with rd := { s.rd with year := some v } }) s

/-- RD_MONTH (R164). -/
def execRdMonth (s : State) : Result :=
  readField .rdMonth (payloadU8 24 s) (fun v => { s with rd := { s.rd with month := some v } }) s

/-- RD_DAY (R165). -/
def execRdDay (s : State) : Result :=
  readField .rdDay (payloadU8 25 s) (fun v => { s with rd := { s.rd with day := some v } }) s

/-- RD_HOUR (R166). -/
def execRdHour (s : State) : Result :=
  readField .rdHour (payloadU8 27 s) (fun v => { s with rd := { s.rd with hour := some v } }) s

/-- RD_MINUTE (R167). -/
def execRdMinute (s : State) : Result :=
  readField .rdMinute (payloadU8 28 s) (fun v => { s with rd := { s.rd with minute := some v } }) s

/-- RD_SECOND (R168). -/
def execRdSecond (s : State) : Result :=
  readField .rdSecond (payloadU8 29 s) (fun v => { s with rd := { s.rd with second := some v } }) s

/-- RD_AEI (R169). -/
def execRdAei (s : State) : Result :=
  readField .rdAei (payloadBe32 35 s) (fun v => { s with rd := { s.rd with aei := some v } }) s

/-- RD_AEO (R170). -/
def execRdAeo (s : State) : Result :=
  readField .rdAeo (payloadBe32 40 s) (fun v => { s with rd := { s.rd with aeo := some v } }) s

/-- RD_REI (R171). -/
def execRdRei (s : State) : Result :=
  readField .rdRei (payloadBe32 45 s) (fun v => { s with rd := { s.rd with rei := some v } }) s

/-- RD_REO (R172). -/
def execRdReo (s : State) : Result :=
  readField .rdReo (payloadBe32 50 s) (fun v => { s with rd := { s.rd with reo := some v } }) s

/-- RD_API (R173). -/
def execRdApi (s : State) : Result :=
  readField .rdApi (payloadBe32 55 s) (fun v => { s with rd := { s.rd with api := some v } }) s

/-- RD_APO (R174). -/
def execRdApo (s : State) : Result :=
  readField .rdApo (payloadBe32 60 s) (fun v => { s with rd := { s.rd with apo := some v } }) s

/-- RD_RPI (R175). -/
def execRdRpi (s : State) : Result :=
  readField .rdRpi (payloadBe32 65 s) (fun v => { s with rd := { s.rd with rpi := some v } }) s

/-- RD_RPO (R176). -/
def execRdRpo (s : State) : Result :=
  readField .rdRpo (payloadBe32 70 s) (fun v => { s with rd := { s.rd with rpo := some v } }) s

end Sys2Proof.Machine
end

