-- ==== Sys2Proof/Machine/Dispatch.lean ====
section
/-! DEFINITION. One arm per row of spec/opcode_table.json. -/
namespace Sys2Proof.Machine

def exec (i : Instr) (s : State) : Host.Outcome State Fault Refusal :=
  match i with
  | .reset => Sys2Proof.Machine.execReset s
  | .fail => Sys2Proof.Machine.execFail s
  | .byte b => Sys2Proof.Machine.execByte b s
  | .idle => Sys2Proof.Machine.execIdle s
  | .collectStore b => Sys2Proof.Machine.execCollectStore b s
  | .collectAccept b => Sys2Proof.Machine.execCollectAccept b s
  | .collectReject b => Sys2Proof.Machine.execCollectReject b s
  | .huntSkip b => Sys2Proof.Machine.execHuntSkip b s
  | .huntEnd b => Sys2Proof.Machine.execHuntEnd b s
  | .nbStitle => Sys2Proof.Machine.execNbStitle s
  | .nbIc => Sys2Proof.Machine.execNbIc s
  | .nbNonce => Sys2Proof.Machine.execNbNonce s
  | .nbCtext => Sys2Proof.Machine.execNbCtext s
  | .rdCheck => Sys2Proof.Machine.execRdCheck s
  | .rdDecode => Sys2Proof.Machine.execRdDecode s
  | .rdYear => Sys2Proof.Machine.execRdYear s
  | .rdMonth => Sys2Proof.Machine.execRdMonth s
  | .rdDay => Sys2Proof.Machine.execRdDay s
  | .rdHour => Sys2Proof.Machine.execRdHour s
  | .rdMinute => Sys2Proof.Machine.execRdMinute s
  | .rdSecond => Sys2Proof.Machine.execRdSecond s
  | .rdAei => Sys2Proof.Machine.execRdAei s
  | .rdAeo => Sys2Proof.Machine.execRdAeo s
  | .rdRei => Sys2Proof.Machine.execRdRei s
  | .rdReo => Sys2Proof.Machine.execRdReo s
  | .rdApi => Sys2Proof.Machine.execRdApi s
  | .rdApo => Sys2Proof.Machine.execRdApo s
  | .rdRpi => Sys2Proof.Machine.execRdRpi s
  | .rdRpo => Sys2Proof.Machine.execRdRpo s

end Sys2Proof.Machine
end

