-- ==== Sys2Proof/Machine/ReadingPath.lean ====
section
/-! DEFINITION. The host's side of RD and NB (60_exceptions.md R219) and the build of the block
(70_reset_and_hazards.md R232). -/
namespace Sys2Proof.Machine

/-- The external engine presents `(plain, auth_ok)` (R219): `rd_len` saturates at 255, entries at and above the length
hold no value, `rd_auth_fail` is tied to 0 when `AUTH_CHECKED` is false (10_state.md R30). -/
def driveRd (plain : List Byte) (authOk : Bool) (s : State) : State :=
  { s with rdIn :=
      { len := BitVec.ofNat 8 (min plain.length 255)
        pl := Memory.writeBytes Memory.invalidated 0 (plain.take Config.payloadLen)
        authFail := s.build.authChecked && !authOk } }

/-- RD is combinational: its outputs are its functions of the inputs the engine presents (42_record_decoder.md
R160). -/
def presentResult (plain : List Byte) (authOk : Bool) (s : State) : Result :=
  execRdDecode (driveRd plain authOk s)

/-- `Decrypt(key, nonce, ct) -> (plain, auth_ok)` (R219): deterministic, nothing else is assumed of it. -/
abbrev Decrypt := List Byte → List Byte → List Byte → List Byte × Bool

/-- The block's reading path (R219): nonce and ciphertext of `last_frame` to the engine, its result to RD. `Decrypt` and
`KEY` are OPEN (92_eei_decisions.md D28): arguments. -/
def readingPath (dec : Decrypt) (key : List Byte) (s : State) : Result :=
  withValue (nbNonceValue s) fun nonce =>
    withValue (nbCtValue s) fun ct =>
      presentResult (dec key nonce ct).1 (dec key nonce ct).2 s

/-- The scaled value of a raw energy count, in kWh or kvarh: the exact rational `raw / 1000` (42_record_decoder.md R178).
The block outputs the raw count; conversion to floating point is the host's (00_scope.md R4). -/
def scaledEnergy (raw : BitVec 32) : Rat := mkRat raw.toNat 1000

/-- The first parameter whose value 00_scope.md R5 does not allow. `HUNT_LIMIT` is none or some N with N >= 1
(40_frame_sync.md R109). -/
def unsupported (p : Config.Params) : Option Config.Parameter :=
  if p.marker ≠ Config.marker then some .marker
  else if p.frameLen ≠ Config.frameLen then some .frameLen
  else if p.stOff ≠ Config.stOff ∨ p.stLen ≠ Config.stLen then some .stitlePosition
  else if p.icOff ≠ Config.icOff ∨ p.icLen ≠ Config.icLen then some .icPosition
  else if p.nonceLen ≠ Config.nonceLen then some .nonceLen
  else if p.ctOff ≠ Config.ctOff then some .ctOff
  else if p.trailLen ≠ Config.trailLen then some .trailLen
  else if p.payloadLen ≠ Config.payloadLen then some .payloadLen
  else if p.payloadTag ≠ Config.payloadTag then some .payloadTag
  else if p.huntLimit = some 0 then some .huntLimit
  else none

/-- Building the block (70_reset_and_hazards.md R232 (1)): the power-on state with the parameters asked for, or a
refusal of a value the spec does not fix (00_scope.md R13 (3)). -/
def buildBlock (p : Config.Params) : Result :=
  match unsupported p with
  | some x => .refused (.unsupportedParameter x)
  | none => .next (State.powerOn { huntLimit := p.huntLimit, authChecked := p.authChecked })

end Sys2Proof.Machine
end

