-- ==== Sys2Proof/Machine/Run.lean ====
section
/-! DEFINITION. One action of an outside agent carried out: a stream word, an engine result or a host evaluation. -/
namespace Sys2Proof.Machine

/-- One step of the block: the word is decoded and its operation performed (00_scope.md R12, 40_frame_sync.md R100). -/
def takeWord (w : StreamWord) (s : State) : Result := exec (decode w) s

/-- The host evaluates a combinational operation; it consumes no step (30_encoding.md R71, R77). -/
def evaluateOp (i : Instr) (s : State) : Result :=
  match i.format with
  | .comb => exec i s
  | .stream => .refused .notAPortOperation

/-- One action of an outside agent (60_exceptions.md section 4). -/
def runInput (i : Input) (s : State) : Result :=
  match i with
  | .word w => takeWord w s
  | .engine plain authOk => presentResult plain authOk s
  | .evaluate op => evaluateOp op s

end Sys2Proof.Machine
end

