-- ==== Sys2Proof/Machine/Step.lean ====
section
/-! DEFINITION. One step of the machine: the next action of an outside agent, carried out. -/
namespace Sys2Proof.Machine

/-- The next pending action, carried out. Where nothing is pending, nothing happens and the state after the last step
holds (60_exceptions.md R216, R221; DESIGN CHOICE, log 2). -/
def step (s : State) : Host.Outcome State Fault Refusal :=
  match fetch s with
  | none => .next s
  | some (i, s') => runInput i s'

/-- `s` with the stream word `w` sent next. A table row has at most 11 bits (30_encoding.md R70). -/
def State.withFetchWord (s : State) (nbits w : Nat) : State := placeWord (BitVec.ofNat 11 (w % 2 ^ nbits)) s

end Sys2Proof.Machine
end

