-- ==== Sys2Proof/Machine/Assembler.lean ====
section
/-! DEFINITION. The assembler syntax of stream programs and its pseudo-instructions (30_encoding.md R76 to R78). -/
namespace Sys2Proof.Machine

/-- One line of a program (30_encoding.md R76, R77). A named frame is given by its bytes. -/
inductive Line where
  | reset
  | fail
  | idle
  | byte (b : Byte)
  | bytes (hs : List Byte)
  | seq (a b : Byte)
  | rep (n : Nat) (line : Line)
  | frame (f : List Byte)
  | slice (f : List Byte) (a b : Nat)
  deriving DecidableEq, Repr

/-- `BYTE h0, ..., BYTE hk` in that order (30_encoding.md R77). -/
def byteWords (hs : List Byte) : List StreamWord := hs.map byteWord

/-- The canonical words a line expands to (30_encoding.md R77, R78); none where the line is outside R77: SEQ with
AA > BB, FRAME of other than 105 bytes, SLICE outside the frame. -/
def expandLine : Line → Option (List StreamWord)
  | .reset => some [0x400#11]
  | .fail => some [0x200#11]
  | .idle => some [0x000#11]
  | .byte b => some (byteWords [b])
  | .bytes hs => some (byteWords hs)
  | .seq a b =>
    if a.toNat ≤ b.toNat then
      some (byteWords ((List.range (b.toNat - a.toNat + 1)).map fun i => BitVec.ofNat 8 (a.toNat + i)))
    else none
  | .rep n line =>
    match expandLine line with
    | some ws => some (List.replicate n ws).flatten
    | none => none
  | .frame f => if f.length = Config.frameLen then some (byteWords f) else none
  | .slice f a b => if a ≤ b ∧ b < f.length then some (byteWords ((f.drop a).take (b - a + 1))) else none

/-- A program's words, line after line (30_encoding.md R76, R78). -/
def assemble : List Line → Option (List StreamWord)
  | [] => some []
  | l :: ls =>
    match expandLine l, assemble ls with
    | some ws, some rest => some (ws ++ rest)
    | _, _ => none

end Sys2Proof.Machine
end

