-- ==== Sys2Proof/Machine/Transport.lean ====
section
/-! DEFINITION. What the transport sends for what happens on its line (60_exceptions.md R216), and a session's words
(70_reset_and_hazards.md R232). -/
namespace Sys2Proof.Machine

/-- What happens on the transport's line (60_exceptions.md R216). -/
inductive LineEvent where
  /-- A byte arrives. -/
  | byte (b : Byte)
  /-- No byte has arrived yet. -/
  | noByte
  /-- A timeout, a short read or an I/O error, in place of the byte that did not arrive. -/
  | failure
  deriving DecidableEq, Repr

/-- The word the transport sends (60_exceptions.md R216), in its canonical form (30_encoding.md R78). -/
def transportWord : LineEvent → StreamWord
  | .byte b => byteWord b
  | .noByte => 0x000#11
  | .failure => 0x200#11

/-- RESET, then a word for each event, in line order (70_reset_and_hazards.md R232 (4)). -/
def sessionWords (es : List LineEvent) : List StreamWord := 0x400#11 :: es.map transportWord

end Sys2Proof.Machine
end

