-- ==== Sys2Proof/Machine/Reference.lean ====
section
/-! DEFINITION. The reference algorithm FS is compared with: the source's Frame Reader over a byte sequence
(40_frame_sync.md R110, R111). -/
namespace Sys2Proof.Machine

/-- Where a call of `read_frame` fails (R111 (c)). -/
inductive ReadFailure where
  /-- In `read_exact`, having read `c` bytes. -/
  | inReadExact (c : Nat)
  /-- In `read_until`. -/
  | inReadUntil
  deriving DecidableEq, Repr

/-- `read_until(T, MARKER)`: what is left after the next marker; none if there is none (R110). -/
def readUntil : List Byte → Option (List Byte)
  | [] => none
  | b :: bs => if b = Config.marker then some bs else readUntil bs

/-- `read_frame(T)`: the frame and what is left (R110). Every retry consumes bytes, so a fuel above the length of the
sequence never runs out. -/
def readFrame : Nat → List Byte → Except ReadFailure (List Byte × List Byte)
  | 0, bs => .error (.inReadExact bs.length)
  | fuel + 1, bs =>
    if bs.length < Config.frameLen then .error (.inReadExact bs.length)
    else if bs[0]? = some Config.marker ∧ bs[Config.frameLen - 1]? = some Config.marker then
      .ok (bs.take Config.frameLen, bs.drop Config.frameLen)
    else
      match readUntil (bs.drop Config.frameLen) with
      | none => .error .inReadUntil
      | some rest => readFrame fuel rest

/-- `read_frame` called until a call fails: each returned buffer with the number of bytes consumed so far, and the
failure. `m` bytes were consumed before (R111 (b)). -/
def framesRefFrom : Nat → Nat → List Byte → List (Nat × List Byte) × ReadFailure
  | 0, _, bs => ([], .inReadExact bs.length)
  | fuel + 1, m, bs =>
    match readFrame (bs.length + 1) bs with
    | .error e => ([], e)
    | .ok (f, rest) =>
      let m' := m + (bs.length - rest.length)
      ((m', f) :: (framesRefFrom fuel m' rest).1, (framesRefFrom fuel m' rest).2)

/-- `frames_ref(s)` with the byte counts `m_j`, and the failure of the last call (R111). -/
def framesRef (bs : List Byte) : List (Nat × List Byte) × ReadFailure := framesRefFrom (bs.length + 1) 0 bs

end Sys2Proof.Machine
end

