-- ==== Sys2Proof/Safety.lean ====
section
/-! DEFINITION. The terms claims are stated in: the invariants of a run, what an operation leaves alone, and the frames
a run delivers. -/
namespace Sys2Proof.Machine

/-! ## Invariants -/

/-- `fs_count` as a number, 0 where it holds none. -/
def countNat (s : State) : Nat :=
  match s.fs.count with
  | some c => c.toNat
  | none => 0

/-- 10_state.md R31 (v). -/
def discLegal (s : State) : Bool :=
  match s.build.huntLimit, s.fs.disc with
  | none, some d => d == 0
  | some n, some d => decide (d < n)
  | _, none => false

/-- 10_state.md R31, for states reached from RESET, with the two facts it rests on: every element holds a value
(R20's reset column), and a valid frame is whole (R27: all 105 entries are written in one step). -/
structure FsInv (s : State) : Prop where
  modeHeld : s.fs.mode.isSome = true
  countHeld : s.fs.count.isSome = true
  validHeld : s.last.valid.isSome = true
  countAtMost : countNat s ≤ 104
  huntCount : s.fs.mode = some .hunt → countNat s = 0
  candidate : ∀ i, i < 105 → ((s.fs.buf.read i).isSome = true ↔ s.fs.mode = some .collect ∧ i < countNat s)
  invalidFrame : s.last.valid = some false ↔ ∀ i, i < 105 → s.last.bytes.read i = none
  wholeFrame : s.last.valid = some true → ∀ i, i < 105 → (s.last.bytes.read i).isSome = true
  markers : s.last.valid = some true →
    s.last.bytes.read 0 = some Config.marker ∧ s.last.bytes.read 104 = some Config.marker
  disc : discLegal s = true

/-- What the engine may present on RD's inputs (10_state.md R30, 60_exceptions.md R219): the payload entries below
`rd_len` hold values and no others, and `rd_auth_fail` is 0 when `AUTH_CHECKED` is false. -/
structure RdInputsLegal (s : State) : Prop where
  payload : ∀ i, i < 74 → ((s.rdIn.pl.read i).isSome = true ↔ i < s.rdIn.len.toNat)
  tied : s.build.authChecked = false → s.rdIn.authFail = false

/-- Every byte space is in canonical form. -/
def memoriesWf (s : State) : Bool :=
  Memory.wf (spaceSize .cand) s.fs.buf && Memory.wf (spaceSize .frame) s.last.bytes &&
    Memory.wf (spaceSize .payload) s.rdIn.pl

/-- NB's ports are the functions of `last_frame` and `last_valid` (10_state.md R29, 41_nonce_builder.md R140). -/
def NbAgree (s : State) : Prop := s.nb = nbPortsOf s

/-- RD's output ports as functions of its inputs (42_record_decoder.md R160 to R162). -/
def rdPortsOf (s : State) : Option RdPorts :=
  match decodePayload s with
  | .ok (.ok r) => some (readingPorts r)
  | .ok (.error c) => some (RdPorts.failed c)
  | .error _ => none

/-- RD's output ports are the functions of its inputs (42_record_decoder.md R160). -/
def RdAgree (s : State) : Prop := rdPortsOf s = some s.rd

/-! ## Frames -/

/-- Every byte of every space reads as before. -/
def BytesUnchanged (s t : State) : Prop := ∀ sp i, readByte sp i t = readByte sp i s

/-- Every byte outside one entry of one space reads as before. -/
def BytesUnchangedBut (sp0 : Space) (i0 : Nat) (s t : State) : Prop :=
  ∀ sp i, ¬(sp = sp0 ∧ i = i0) → readByte sp i t = readByte sp i s

/-- Every byte outside the listed spaces reads as before. -/
def BytesUnchangedOutside (spaces : List Space) (s t : State) : Prop :=
  ∀ sp i, sp ∉ spaces → readByte sp i t = readByte sp i s

/-- Every entry of the space holds `NONE`. -/
def AllNone (sp : Space) (s : State) : Prop :=
  ∀ i, i < spaceSize sp → readByte sp i s = .error (.readNone (.entry sp i))

/-- What no operation of FS touches: the build parameters, RD's ports, the pending input. -/
def FsFrame (s t : State) : Prop :=
  t.build = s.build ∧ t.rdIn = s.rdIn ∧ t.rd = s.rd ∧ t.input = s.input

/-- No pulse. -/
def noPulses : Pulses := { frameDone := false, connErr := false, desyncErr := false }

/-- `last_valid` = 1 and every entry of `last_frame` holds a byte. -/
def FrameWhole (s : State) : Prop :=
  s.last.valid = some true ∧ ∀ i, i < 105 → (s.last.bytes.read i).isSome = true

/-- RD_CHECK passes (42_record_decoder.md R161). -/
def CheckPasses (s : State) : Prop :=
  s.rdIn.authFail = false ∧ s.rdIn.len = 74#8 ∧ readByte .payload 0 s = .ok 0x0F#8

/-- RD_CHECK fails with this cause, in the order AUTH, LEN, TAG (42_record_decoder.md R161). -/
def CheckFails (s : State) : RdCause → Prop
  | .auth => s.rdIn.authFail = true
  | .len => s.rdIn.authFail = false ∧ s.rdIn.len ≠ 74#8
  | .tag => s.rdIn.authFail = false ∧ s.rdIn.len = 74#8 ∧ ∃ b, readByte .payload 0 s = .ok b ∧ b ≠ 0x0F#8
  | .noCause => False

/-- A byte-wide field rule: `i` drives one RD port with `P[o]` and changes nothing else. -/
def ByteFieldRule (i : Instr) (o : Nat) (put : RdPorts → Byte → RdPorts) : Prop :=
  ∀ s a, CheckPasses s → readByte .payload o s = .ok a →
    ∃ t, exec i s = .next t ∧ t = { s with rd := put s.rd a } ∧ BytesUnchanged s t

/-- A 32-bit field rule: `i` drives one RD port with `be32(P, o)` and changes nothing else. -/
def QuantityRule (i : Instr) (o : Nat) (put : RdPorts → BitVec 32 → RdPorts) : Prop :=
  ∀ s a0 a1 a2 a3, CheckPasses s →
    readByte .payload o s = .ok a0 → readByte .payload (o + 1) s = .ok a1 →
    readByte .payload (o + 2) s = .ok a2 → readByte .payload (o + 3) s = .ok a3 →
    ∃ t v, exec i s = .next t ∧ t = { s with rd := put s.rd v } ∧
      v.toNat = a0.toNat * 2 ^ 24 + a1.toNat * 2 ^ 16 + a2.toNat * 2 ^ 8 + a3.toNat ∧ BytesUnchanged s t

/-! ## Runs of stream words -/

/-- The bytes the BYTE words of a sequence carry, in order. -/
def bytesOf : List StreamWord → List Byte
  | [] => []
  | w :: ws =>
    match decode w with
    | .byte b => b :: bytesOf ws
    | _ => bytesOf ws

/-- The state after a sequence of words; none if a step stops. -/
def takeWords : List StreamWord → State → Option State
  | [], s => some s
  | w :: ws, s =>
    match takeWord w s with
    | .next t => takeWords ws t
    | .fault _ => none
    | .refused _ => none

/-- The frames a sequence of words delivers: at each step that emits `frame_done`, the number of BYTE words so far and
`last_frame`; and the state after the last word. `n` BYTE words came before (40_frame_sync.md R111 (a), (b)). -/
def frameTrace : List StreamWord → Nat → State → Option (List (Nat × List Byte) × State)
  | [], _, s => some ([], s)
  | w :: ws, n, s =>
    match takeWord w s with
    | .fault _ => none
    | .refused _ => none
    | .next t =>
      match frameTrace ws (n + (bytesOf [w]).length) t with
      | none => none
      | some (out, u) =>
        if t.pulses.frameDone then
          match readBytes .frame t 0 105 with
          | .ok f => some ((n + (bytesOf [w]).length, f) :: out, u)
          | .error _ => none
        else some (out, u)

/-- The words of a byte stream (30_encoding.md R78). -/
def streamOf (bs : List Byte) : List StreamWord := bs.map byteWord

/-- A 105-byte frame with its two markers and no other (40_frame_sync.md R115). -/
def CleanFrame (f : List Byte) : Prop :=
  f.length = 105 ∧ f[0]? = some Config.marker ∧ f[104]? = some Config.marker ∧
    ∀ i, 1 ≤ i → i ≤ 103 → f[i]? ≠ some Config.marker

/-- The state in which RESET, FAIL or an accepted frame leaves FS: collecting a new candidate. -/
def AtCandidateStart (s : State) : Prop :=
  s.fs.mode = some .collect ∧ s.fs.count = some 0#7 ∧ s.fs.buf = []

end Sys2Proof.Machine
end

