-- ==== Sys2Proof/Certificates/Slice0/Obligations.lean ====
section
/-! DEFINITION. The statements for the provers. Rules are those of spec/; a statement that rests on a choice of the
model names its log entry. -/
open Sys2Proof Sys2Proof.Machine

/-! ## Encoding -/

/-- 30_encoding.md R72, R78: every well-formed stream row's canonical word decodes to it (a state-selected row to
BYTE with its operand), BYTE's word is 0x100 + 0xHH, a COMB row has no word (R71), and re-encoding any of the 2048
words keeps its meaning. -/
def Obligations.CanonicalWordRoundTrip : Prop :=
  (∀ i : Instr, i.format = .stream → i.wellFormed = true → ∃ w, encode i = some w ∧ decode w = i.wordForm) ∧
  (∀ i : Instr, i.format = .comb → encode i = none) ∧
  encode .reset = some 0x400#11 ∧ encode .fail = some 0x200#11 ∧ encode .idle = some 0x000#11 ∧
  (∀ b : Byte, ∃ w, encode (.byte b) = some w ∧ w.toNat = 0x100 + b.toNat) ∧
  (∀ w, ∃ w', encode (decode w) = some w' ∧ decode w' = decode w)

/-- 30_encoding.md R72: the decode of every word by its control bits, in priority order, with BYTE's data bits taken
as they are. -/
def Obligations.DecodeFollowsControlBits : Prop :=
  ∀ w : StreamWord,
    (w.getLsbD 10 = true → decode w = .reset) ∧
    (w.getLsbD 10 = false → w.getLsbD 9 = true → decode w = .fail) ∧
    (w.getLsbD 10 = false → w.getLsbD 9 = false → w.getLsbD 8 = true →
      ∃ b : Byte, decode w = .byte b ∧ ∀ i, i < 8 → b.getLsbD i = w.getLsbD i) ∧
    (w.getLsbD 10 = false → w.getLsbD 9 = false → w.getLsbD 8 = false → decode w = .idle)

/-- Sample words, written out from 30_encoding.md R72, R74 and R78. -/
def Obligations.SampleWordsDecode : Prop :=
  decode 0x400#11 = .reset ∧ decode 0x7FF#11 = .reset ∧ decode 0x600#11 = .reset ∧
  decode 0x200#11 = .fail ∧ decode 0x3FF#11 = .fail ∧ decode 0x37E#11 = .fail ∧
  decode 0x17E#11 = .byte 0x7E#8 ∧ decode 0x100#11 = .byte 0x00#8 ∧ decode 0x1FF#11 = .byte 0xFF#8 ∧
  decode 0x000#11 = .idle ∧ decode 0x0FF#11 = .idle

/-- 30_encoding.md R74: a non-canonical word acts as the canonical word of its kind, in every state. -/
def Obligations.NonCanonicalWordsActCanonically : Prop :=
  ∀ (w : StreamWord) (s : State),
    (w.getLsbD 10 = true → takeWord w s = takeWord 0x400#11 s) ∧
    (w.getLsbD 10 = false → w.getLsbD 9 = true → takeWord w s = takeWord 0x200#11 s) ∧
    (w.getLsbD 10 = false → w.getLsbD 9 = false → w.getLsbD 8 = false → takeWord w s = takeWord 0x000#11 s)

/-- 30_encoding.md R77: what the pseudo-instructions expand to. BYTES, FRAME, SEQ and SLICE give exactly one BYTE word
per byte, in order; REP gives the line's words n times over, whatever words they are. -/
def Obligations.PseudoInstructionsExpandInOrder : Prop :=
  (∀ hs, ∃ ws, expandLine (.bytes hs) = some ws ∧ ws.length = hs.length ∧ bytesOf ws = hs) ∧
  (∀ f, f.length = 105 → ∃ ws, expandLine (.frame f) = some ws ∧ ws.length = 105 ∧ bytesOf ws = f) ∧
  (∀ a b : Byte, a.toNat ≤ b.toNat → ∃ ws, expandLine (.seq a b) = some ws ∧ ws.length = b.toNat - a.toNat + 1 ∧
    ∀ i, i < ws.length → (bytesOf ws)[i]? = some (a + BitVec.ofNat 8 i)) ∧
  (∀ (f : List Byte) (a b : Nat), a ≤ b → b < f.length → ∃ ws, expandLine (.slice f a b) = some ws ∧
    ws.length = b - a + 1 ∧ ∀ i, i < ws.length → (bytesOf ws)[i]? = f[a + i]?) ∧
  (∀ n line ws, expandLine line = some ws →
    ∃ ws', expandLine (.rep n line) = some ws' ∧ ws'.length = n * ws.length ∧
      ∀ i, i < ws'.length → ws'[i]? = ws[i % ws.length]?)

/-! ## The step -/

/-- 00_scope.md R12: where the next action is a stream word, the step is the decoded instruction performed in that
state with the word consumed; nothing else is around it. -/
def Obligations.StepRunsDecodedWord : Prop :=
  ∀ s w rest, s.input = .word w :: rest → step s = exec (decode w) { s with input := rest }

/-- The model's choice (log 1, log 2, log 9): the other actions of the input, and a step with nothing pending. -/
def Obligations.StepCarriesOutHostActions : Prop :=
  (∀ s, s.input = [] → step s = .next s) ∧
  (∀ s plain ok rest, s.input = .engine plain ok :: rest → step s = presentResult plain ok { s with input := rest }) ∧
  (∀ s i rest, s.input = .evaluate i :: rest → i.format = .comb → step s = exec i { s with input := rest }) ∧
  (∀ s i rest, s.input = .evaluate i :: rest → i.format = .stream → step s = .refused .notAPortOperation)

/-- 60_exceptions.md R216: a byte that arrives is a BYTE step, no byte an IDLE step, a failure a FAIL step. -/
def Obligations.TransportEventsRunTheirRows : Prop :=
  ∀ s : State, (∀ b, takeWord (transportWord (.byte b)) s = exec (.byte b) s) ∧
    takeWord (transportWord .noByte) s = exec .idle s ∧ takeWord (transportWord .failure) s = exec .fail s

/-! ## RESET, FAIL, IDLE -/

/-- 40_frame_sync.md R101, for every word with `w[10]` = 1. -/
def Obligations.ResetGivesResetColumn : Prop :=
  ∀ s : State, ∃ t, exec .reset s = .next t ∧ (∀ w : StreamWord, w.getLsbD 10 = true → takeWord w s = .next t) ∧
    t.fs.mode = some .collect ∧ t.fs.count = some 0#7 ∧ t.fs.disc = some 0 ∧ AllNone .cand t ∧
    AllNone .frame t ∧ t.last.valid = some false ∧
    t.pulses = noPulses ∧ t.fsEvents = [] ∧ FsFrame s t ∧ BytesUnchangedOutside [.cand, .frame] s t

/-- 10_state.md R20, 70_reset_and_hazards.md R230: RESET takes the power-on state to the reset state. The values of
RD's ports and of AUTH_CHECKED in it are the model's choice (log 4, log 6). -/
def Obligations.ResetFromPowerOnIsReset : Prop :=
  exec .reset (State.powerOn State.reset.build) = .next State.reset

/-- 70_reset_and_hazards.md R230: at power-on every element holds NONE; before the first RESET a BYTE step faults on `fs_mode`, IDLE changes nothing, FAIL
sets FS's elements and leaves `last_frame` and `last_valid` at NONE, for every build. -/
def Obligations.PowerOnBeforeReset : Prop :=
  ∀ (bld : Build) (b : Byte),
    ((State.powerOn bld).fs.mode = none ∧ (State.powerOn bld).fs.count = none ∧ (State.powerOn bld).fs.disc = none ∧
      AllNone .cand (State.powerOn bld) ∧ AllNone .frame (State.powerOn bld) ∧
      (State.powerOn bld).last.valid = none) ∧
    exec (.byte b) (State.powerOn bld) = .fault (.readNone .fsMode) ∧
    exec .idle (State.powerOn bld) = .next (State.powerOn bld) ∧
    (∃ t, exec .fail (State.powerOn bld) = .next t ∧ t.fs.mode = some .collect ∧ t.fs.count = some 0#7 ∧
      t.fs.disc = some 0 ∧ AllNone .cand t ∧ AllNone .frame t ∧ t.last.valid = none) ∧
    (∃ t, exec .reset (State.powerOn bld) = .next t ∧ t.fs = State.reset.fs ∧ t.last = State.reset.last)

/-- 40_frame_sync.md R102, for every word with `w[10:9]` = 01; the event is 60_exceptions.md R201's. -/
def Obligations.FailDropsCandidateKeepsFrame : Prop :=
  ∀ s : State, ∃ t, exec .fail s = .next t ∧
    (∀ w : StreamWord, w.getLsbD 10 = false → w.getLsbD 9 = true → takeWord w s = .next t) ∧
    t.pulses = { frameDone := false, connErr := true, desyncErr := false } ∧ t.fsEvents = [.connectionError] ∧
    t.fs.mode = some .collect ∧ t.fs.count = some 0#7 ∧ t.fs.disc = some 0 ∧ AllNone .cand t ∧
    t.last = s.last ∧ (NbAgree s → t.nb = s.nb) ∧ FsFrame s t ∧ BytesUnchangedOutside [.cand] s t

/-- 40_frame_sync.md R103, for every word with `w[10:8]` = 000. -/
def Obligations.IdleChangesNoState : Prop :=
  ∀ s : State, ∃ t, exec .idle s = .next t ∧
    (∀ w : StreamWord, w.getLsbD 10 = false → w.getLsbD 9 = false → w.getLsbD 8 = false → takeWord w s = .next t) ∧
    t.fs = s.fs ∧ t.last = s.last ∧ t.pulses = noPulses ∧ t.fsEvents = [] ∧
    (NbAgree s → t.nb = s.nb) ∧ FsFrame s t ∧ BytesUnchanged s t

/-! ## BYTE and its state-selected operations -/

/-- 40_frame_sync.md R100: the row a BYTE step performs, from `fs_mode`, `fs_count`, `fs_buf[0]` and the byte. -/
def Obligations.ByteRunsSelectedOperation : Prop :=
  ∀ (s : State) (b : Byte),
    (∀ c : BitVec 7, s.fs.mode = some .collect → s.fs.count = some c → c.toNat < 104 →
      exec (.byte b) s = exec (.collectStore b) s) ∧
    (∀ b0, s.fs.mode = some .collect → s.fs.count = some 104#7 → readByte .cand 0 s = .ok b0 →
      exec (.byte b) s =
        if b0 = Config.marker ∧ b = Config.marker then exec (.collectAccept b) s else exec (.collectReject b) s) ∧
    (s.fs.mode = some .hunt →
      exec (.byte b) s = if b = Config.marker then exec (.huntEnd b) s else exec (.huntSkip b) s)

/-- 40_frame_sync.md R100: in a state that satisfies 10_state.md R31 every word, and so BYTE, has a next state: no
step of FS faults. -/
def Obligations.EveryWordCompletes : Prop :=
  ∀ s : State, FsInv s →
    (∀ w, ∃ t, takeWord w s = .next t) ∧ (∀ b, ∃ t, exec (.byte b) s = .next t)

/-- 40_frame_sync.md R104. -/
def Obligations.CollectStoreAppendsByte : Prop :=
  ∀ (s : State) (b : Byte) (c : BitVec 7), s.fs.mode = some .collect → s.fs.count = some c → c.toNat < 104 →
    ∃ t, exec (.collectStore b) s = .next t ∧ (∀ w, decode w = .byte b → takeWord w s = .next t) ∧
      (∃ c', t.fs.count = some c' ∧ c'.toNat = c.toNat + 1) ∧ readByte .cand c.toNat t = .ok b ∧
      t.fs.mode = some .collect ∧ t.fs.disc = s.fs.disc ∧ t.last = s.last ∧
      t.pulses = noPulses ∧ t.fsEvents = [] ∧ (NbAgree s → t.nb = s.nb) ∧
      FsFrame s t ∧ BytesUnchangedBut .cand c.toNat s t

/-- 40_frame_sync.md R105; NB's ports follow the new frame in the same step (41_nonce_builder.md R140). -/
def Obligations.CollectAcceptPublishesFrame : Prop :=
  ∀ s : State, s.fs.mode = some .collect → s.fs.count = some 104#7 → readByte .cand 0 s = .ok Config.marker →
    (∀ i, i < 104 → (s.fs.buf.read i).isSome = true) →
    ∃ t, exec (.collectAccept Config.marker) s = .next t ∧ takeWord 0x17E#11 s = .next t ∧
      (∀ i, i < 104 → readByte .frame i t = readByte .cand i s) ∧ readByte .frame 104 t = .ok Config.marker ∧
      t.last.valid = some true ∧ t.pulses = { frameDone := true, connErr := false, desyncErr := false } ∧
      t.fsEvents = [] ∧ t.fs.mode = some .collect ∧ t.fs.count = some 0#7 ∧ t.fs.disc = some 0 ∧ AllNone .cand t ∧
      t.nb = nbPortsOf t ∧ FsFrame s t ∧ BytesUnchangedOutside [.cand, .frame] s t

/-- 40_frame_sync.md R106 for both values of `HUNT_LIMIT` (R109): the whole candidate is discarded; 105 bytes are
counted, and the timeout beats the hunt. That the timeout step lists two events (60_exceptions.md R200), FramingDesync
first, is the model's choice where R207 speaks of one event at most per step (DESIGN CHOICE, log 14). -/
def Obligations.CollectRejectDiscardsCandidate : Prop :=
  ∀ (s : State) (b b0 : Byte), s.fs.mode = some .collect → s.fs.count = some 104#7 →
    readByte .cand 0 s = .ok b0 → ¬(b0 = Config.marker ∧ b = Config.marker) →
    (s.build.huntLimit = none →
      ∃ t, exec (.collectReject b) s = .next t ∧ (∀ w, decode w = .byte b → takeWord w s = .next t) ∧
        t.fs.mode = some .hunt ∧ t.fs.count = some 0#7 ∧ t.fs.disc = s.fs.disc ∧ AllNone .cand t ∧ t.last = s.last ∧
        t.pulses = noPulses ∧ t.fsEvents = [.framingDesync] ∧ (NbAgree s → t.nb = s.nb) ∧
        FsFrame s t ∧ BytesUnchangedOutside [.cand] s t) ∧
    (∀ n d, s.build.huntLimit = some n → s.fs.disc = some d →
      ∃ t, exec (.collectReject b) s = .next t ∧ (∀ w, decode w = .byte b → takeWord w s = .next t) ∧
        t.fs.count = some 0#7 ∧ AllNone .cand t ∧ t.last = s.last ∧ (NbAgree s → t.nb = s.nb) ∧
        (if n ≤ d + 105 then
          t.fs.mode = some .collect ∧ t.fs.disc = some 0 ∧
            t.pulses = { frameDone := false, connErr := false, desyncErr := true } ∧
            t.fsEvents = [.framingDesync, .framingDesyncTimeout]
        else
          t.fs.mode = some .hunt ∧ t.fs.disc = some (d + 105) ∧ t.pulses = noPulses ∧ t.fsEvents = [.framingDesync]) ∧
        FsFrame s t ∧ BytesUnchangedOutside [.cand] s t)

/-- 40_frame_sync.md R107 for both values of `HUNT_LIMIT` (R109). -/
def Obligations.HuntSkipDiscardsByte : Prop :=
  ∀ (s : State) (b : Byte), s.fs.mode = some .hunt → b ≠ Config.marker →
    (s.build.huntLimit = none →
      ∃ t, exec (.huntSkip b) s = .next t ∧ (∀ w, decode w = .byte b → takeWord w s = .next t) ∧ t.fs = s.fs ∧ t.last = s.last ∧ t.pulses = noPulses ∧ t.fsEvents = [] ∧
        (NbAgree s → t.nb = s.nb) ∧ FsFrame s t ∧ BytesUnchanged s t) ∧
    (∀ n d, s.build.huntLimit = some n → s.fs.disc = some d →
      ∃ t, exec (.huntSkip b) s = .next t ∧ (∀ w, decode w = .byte b → takeWord w s = .next t) ∧
        t.fs.buf = s.fs.buf ∧ t.last = s.last ∧ (NbAgree s → t.nb = s.nb) ∧
        (if n ≤ d + 1 then
          t.fs.mode = some .collect ∧ t.fs.count = some 0#7 ∧ t.fs.disc = some 0 ∧
            t.pulses = { frameDone := false, connErr := false, desyncErr := true } ∧
            t.fsEvents = [.framingDesyncTimeout]
        else
          t.fs.mode = some .hunt ∧ t.fs.count = s.fs.count ∧ t.fs.disc = some (d + 1) ∧ t.pulses = noPulses ∧
            t.fsEvents = []) ∧
        FsFrame s t ∧ BytesUnchanged s t)

/-- 40_frame_sync.md R108 for both values of `HUNT_LIMIT` (R109): the marker ends the hunt and is not stored; the
timeout takes priority over it, and the count survives the end of a hunt. -/
def Obligations.HuntEndStartsCandidate : Prop :=
  ∀ s : State, s.fs.mode = some .hunt →
    (s.build.huntLimit = none →
      ∃ t, exec (.huntEnd Config.marker) s = .next t ∧ takeWord 0x17E#11 s = .next t ∧
        t.fs.mode = some .collect ∧ t.fs.count = s.fs.count ∧
        t.fs.disc = s.fs.disc ∧ t.fs.buf = s.fs.buf ∧ t.last = s.last ∧ t.pulses = noPulses ∧ t.fsEvents = [] ∧
        (NbAgree s → t.nb = s.nb) ∧ FsFrame s t ∧ BytesUnchanged s t) ∧
    (∀ n d, s.build.huntLimit = some n → s.fs.disc = some d →
      ∃ t, exec (.huntEnd Config.marker) s = .next t ∧ takeWord 0x17E#11 s = .next t ∧
        t.fs.mode = some .collect ∧ t.fs.buf = s.fs.buf ∧ t.last = s.last ∧ (NbAgree s → t.nb = s.nb) ∧
        (if n ≤ d + 1 then
          t.fs.count = some 0#7 ∧ t.fs.disc = some 0 ∧
            t.pulses = { frameDone := false, connErr := false, desyncErr := true } ∧
            t.fsEvents = [.framingDesyncTimeout]
        else
          t.fs.count = s.fs.count ∧ t.fs.disc = some (d + 1) ∧ t.pulses = noPulses ∧ t.fsEvents = []) ∧
        FsFrame s t ∧ BytesUnchanged s t)

/-- The model's choice (log 7): a state-selected row asked for where R100 selects another row is refused by name. -/
def Obligations.UnselectedRowsAreRefused : Prop :=
  ∀ (s : State) (b : Byte) (op : ByteOp), selectByteOp b s = .ok op →
    (op ≠ .collectStore → exec (.collectStore b) s = .refused .notSelected) ∧
    (op ≠ .collectAccept → exec (.collectAccept b) s = .refused .notSelected) ∧
    (op ≠ .collectReject → exec (.collectReject b) s = .refused .notSelected) ∧
    (op ≠ .huntSkip → exec (.huntSkip b) s = .refused .notSelected) ∧
    (op ≠ .huntEnd → exec (.huntEnd b) s = .refused .notSelected)

/-! ## NB -/

/-- 41_nonce_builder.md R141, R142, R144: each port carries its bytes of `last_frame`, in frame order, and evaluating
it changes nothing else. -/
def Obligations.NbSlicesAreFrameBytes : Prop :=
  ∀ s : State, FrameWhole s →
    (∃ v, exec .nbStitle s = .next { s with nb := { s.nb with stitle := some v } } ∧ v.length = 8 ∧
      ∀ i, i < 8 → readByte .frame (14 + i) s = .ok (v.getD i 0#8)) ∧
    (∃ v, exec .nbIc s = .next { s with nb := { s.nb with ic := some v } } ∧ v.length = 4 ∧
      ∀ i, i < 4 → readByte .frame (24 + i) s = .ok (v.getD i 0#8)) ∧
    (∃ v, exec .nbCtext s = .next { s with nb := { s.nb with ct := some v } } ∧ v.length = 74 ∧
      ∀ i, i < 74 → readByte .frame (28 + i) s = .ok (v.getD i 0#8)) ∧
    (∀ nb, BytesUnchanged s { s with nb := nb })

/-- 41_nonce_builder.md R143: the system title first, then the invocation counter, 12 bytes, no byte reversed; and
frames that agree on those bytes give the same nonce. -/
def Obligations.NonceIsTitleThenCounter : Prop :=
  (∀ s : State, FrameWhole s →
    ∃ v, exec .nbNonce s = .next { s with nb := { s.nb with nonce := some v } } ∧ v.length = 12 ∧
      (∀ i, i < 8 → readByte .frame (14 + i) s = .ok (v.getD i 0#8)) ∧
      (∀ i, i < 4 → readByte .frame (24 + i) s = .ok (v.getD (8 + i) 0#8)) ∧
      (∀ st ic, nbStitleValue s = .ok st → nbIcValue s = .ok ic → v = st ++ ic) ∧
      BytesUnchanged s { s with nb := { s.nb with nonce := some v } }) ∧
  (∀ s s' : State, FrameWhole s → FrameWhole s' →
    (∀ i, 14 ≤ i ∧ i ≤ 21 ∨ 24 ≤ i ∧ i ≤ 27 → readByte .frame i s = readByte .frame i s') →
    nbNonceValue s = nbNonceValue s')

/-- 41_nonce_builder.md R147: `nb_valid` is `last_valid`; while it is 0 the four ports hold no value and reading one
faults; while a frame is there they hold the values of R141 to R144. -/
def Obligations.NbPortsNeedFrame : Prop :=
  (∀ s : State, (nbPortsOf s).valid = s.last.valid) ∧
  (∀ s : State, s.last.valid = some false →
    exec .nbStitle s = .fault (.portHoldsNoValue .nbStitle) ∧ exec .nbIc s = .fault (.portHoldsNoValue .nbIc) ∧
    exec .nbNonce s = .fault (.portHoldsNoValue .nbNonce) ∧ exec .nbCtext s = .fault (.portHoldsNoValue .nbCt) ∧
    nbPortsOf s = { valid := some false, stitle := none, ic := none, nonce := none, ct := none }) ∧
  (∀ s : State, FrameWhole s → ∃ st ic ct, nbStitleValue s = .ok st ∧ nbIcValue s = .ok ic ∧
    nbNonceValue s = .ok (st ++ ic) ∧ nbCtValue s = .ok ct ∧
    nbPortsOf s = { valid := some true, stitle := some st, ic := some ic, nonce := some (st ++ ic), ct := some ct })

/-- 41_nonce_builder.md R140: after every step NB's outputs are the functions of the `last_frame` after that step. -/
def Obligations.NbPortsFollowLastFrame : Prop :=
  ∀ (w : StreamWord) (s t : State), takeWord w s = .next t → t.nb = nbPortsOf t

/-- 41_nonce_builder.md R145: only bytes 14..21, 24..27 and 28..101 of `last_frame` reach NB's ports. -/
def Obligations.NbIgnoresUnreadFrameBytes : Prop :=
  ∀ s s' : State, s.last.valid = s'.last.valid →
    (∀ i, 14 ≤ i ∧ i ≤ 21 ∨ 24 ≤ i ∧ i ≤ 101 → readByte .frame i s = readByte .frame i s') →
    nbPortsOf s = nbPortsOf s'

/-! ## RD -/

/-- 42_record_decoder.md R161: RD_CHECK in its order AUTH, LEN, TAG; exactly one result on every payload whose first
byte is there when the length is 74; a failure raises DecryptionError with its cause (60_exceptions.md R204). That a
failing RD_CHECK also leaves no field port with a value is the model's reading of 10_state.md R30 (DEDUCED, log 9). -/
def Obligations.RdCheckValidatesShape : Prop :=
  ∀ s : State,
    (CheckPasses s → exec .rdCheck s = .next { s with rd := { s.rd with ok := true, err := false, cause := .noCause } }) ∧
    (∀ c, CheckFails s c → ∃ t, exec .rdCheck s = .next t ∧ t = { s with rd := RdPorts.failed c } ∧
      t.rd.ok = false ∧ t.rd.err = true ∧ t.rd.cause = c ∧ Event.decryptionError c ∈ raisedEvents t) ∧
    ((s.rdIn.len = 74#8 → ∃ b, readByte .payload 0 s = .ok b) → CheckPasses s ∨ ∃ c, CheckFails s c) ∧
    (∀ c, CheckPasses s → ¬CheckFails s c) ∧ (∀ c c', CheckFails s c → CheckFails s c' → c = c') ∧
    (∀ rd, BytesUnchanged s { s with rd := rd })

/-- 42_record_decoder.md R162: when the check passes, the fourteen fields of the reading, at their offsets
(20_memory.md R55), big-endian and unsigned (00_scope.md R10); when it fails, DecryptionError and no field has a
value: no partial reading. That RD_DECODE also drives R161's check ports is the model's reading of R162 and of
60_exceptions.md R200 (DEDUCED, log 9). -/
def Obligations.RdDecodeGivesReading : Prop :=
  (∀ (s : State) (p : Nat → Byte), CheckPasses s → (∀ i, i < 74 → readByte .payload i s = .ok (p i)) →
    ∃ (t : State) (r : Reading), exec .rdDecode s = .next t ∧ t = { s with rd := readingPorts r } ∧
      t.rd.ok = true ∧ t.rd.err = false ∧ t.rd.cause = .noCause ∧
      r.year.toNat = (p 22).toNat * 2 ^ 8 + (p 23).toNat ∧
      r.month = p 24 ∧ r.day = p 25 ∧ r.hour = p 27 ∧ r.minute = p 28 ∧ r.second = p 29 ∧
      r.activeEnergyIn = be32 (p 35) (p 36) (p 37) (p 38) ∧ r.activeEnergyOut = be32 (p 40) (p 41) (p 42) (p 43) ∧
      r.reactiveEnergyIn = be32 (p 45) (p 46) (p 47) (p 48) ∧ r.reactiveEnergyOut = be32 (p 50) (p 51) (p 52) (p 53) ∧
      r.activePowerIn = be32 (p 55) (p 56) (p 57) (p 58) ∧ r.activePowerOut = be32 (p 60) (p 61) (p 62) (p 63) ∧
      r.reactivePowerIn = be32 (p 65) (p 66) (p 67) (p 68) ∧ r.reactivePowerOut = be32 (p 70) (p 71) (p 72) (p 73) ∧
      t.rd.year = some r.year ∧ t.rd.month = some r.month ∧ t.rd.day = some r.day ∧ t.rd.hour = some r.hour ∧
      t.rd.minute = some r.minute ∧ t.rd.second = some r.second ∧
      t.rd.aei = some r.activeEnergyIn ∧ t.rd.aeo = some r.activeEnergyOut ∧
      t.rd.rei = some r.reactiveEnergyIn ∧ t.rd.reo = some r.reactiveEnergyOut ∧
      t.rd.api = some r.activePowerIn ∧ t.rd.apo = some r.activePowerOut ∧
      t.rd.rpi = some r.reactivePowerIn ∧ t.rd.rpo = some r.reactivePowerOut ∧ BytesUnchanged s t) ∧
  (∀ a0 a1 a2 a3 : Byte,
    (be32 a0 a1 a2 a3).toNat = a0.toNat * 2 ^ 24 + a1.toNat * 2 ^ 16 + a2.toNat * 2 ^ 8 + a3.toNat) ∧
  (∀ (s : State) (c : RdCause), CheckFails s c →
    ∃ t, exec .rdDecode s = .next t ∧ t = { s with rd := RdPorts.failed c } ∧ t.rd.ok = false ∧ t.rd.err = true ∧
      t.rd.cause = c ∧ Event.decryptionError c ∈ raisedEvents t ∧
      t.rd.year = none ∧ t.rd.month = none ∧ t.rd.day = none ∧ t.rd.hour = none ∧ t.rd.minute = none ∧
      t.rd.second = none ∧ t.rd.aei = none ∧ t.rd.aeo = none ∧ t.rd.rei = none ∧ t.rd.reo = none ∧ t.rd.api = none ∧
      t.rd.apo = none ∧ t.rd.rpi = none ∧ t.rd.rpo = none ∧ BytesUnchanged s t)

/-- 42_record_decoder.md R163 to R168: the year is `be16(P, 22)` and the other timestamp fields are the bytes at 24,
25, 27, 28 and 29, passed through with no range check (R179). -/
def Obligations.RdTimestampFields : Prop :=
  (∀ s a0 a1, CheckPasses s → readByte .payload 22 s = .ok a0 → readByte .payload 23 s = .ok a1 →
    ∃ t v, exec .rdYear s = .next t ∧ t = { s with rd := { s.rd with year := some v } } ∧
      v.toNat = a0.toNat * 2 ^ 8 + a1.toNat ∧ BytesUnchanged s t) ∧
  ByteFieldRule .rdMonth 24 (fun r v => { r with month := some v }) ∧
  ByteFieldRule .rdDay 25 (fun r v => { r with day := some v }) ∧
  ByteFieldRule .rdHour 27 (fun r v => { r with hour := some v }) ∧
  ByteFieldRule .rdMinute 28 (fun r v => { r with minute := some v }) ∧
  ByteFieldRule .rdSecond 29 (fun r v => { r with second := some v })

/-- 42_record_decoder.md R169 to R172: the four raw energy counts. -/
def Obligations.RdEnergyFields : Prop :=
  QuantityRule .rdAei 35 (fun r v => { r with aei := some v }) ∧
  QuantityRule .rdAeo 40 (fun r v => { r with aeo := some v }) ∧
  QuantityRule .rdRei 45 (fun r v => { r with rei := some v }) ∧
  QuantityRule .rdReo 50 (fun r v => { r with reo := some v })

/-- 42_record_decoder.md R173 to R176: the four powers, unscaled and unsigned. -/
def Obligations.RdPowerFields : Prop :=
  QuantityRule .rdApi 55 (fun r v => { r with api := some v }) ∧
  QuantityRule .rdApo 60 (fun r v => { r with apo := some v }) ∧
  QuantityRule .rdRpi 65 (fun r v => { r with rpi := some v }) ∧
  QuantityRule .rdRpo 70 (fun r v => { r with rpo := some v })

/-- 70_reset_and_hazards.md R235: reading any field port while RD_CHECK fails faults. -/
def Obligations.RdFieldReadFaultsWhenCheckFails : Prop :=
  ∀ (s : State) (c : RdCause), CheckFails s c →
    exec .rdYear s = .fault (.portHoldsNoValue .rdYear) ∧ exec .rdMonth s = .fault (.portHoldsNoValue .rdMonth) ∧
    exec .rdDay s = .fault (.portHoldsNoValue .rdDay) ∧ exec .rdHour s = .fault (.portHoldsNoValue .rdHour) ∧
    exec .rdMinute s = .fault (.portHoldsNoValue .rdMinute) ∧
    exec .rdSecond s = .fault (.portHoldsNoValue .rdSecond) ∧
    exec .rdAei s = .fault (.portHoldsNoValue .rdAei) ∧ exec .rdAeo s = .fault (.portHoldsNoValue .rdAeo) ∧
    exec .rdRei s = .fault (.portHoldsNoValue .rdRei) ∧ exec .rdReo s = .fault (.portHoldsNoValue .rdReo) ∧
    exec .rdApi s = .fault (.portHoldsNoValue .rdApi) ∧ exec .rdApo s = .fault (.portHoldsNoValue .rdApo) ∧
    exec .rdRpi s = .fault (.portHoldsNoValue .rdRpi) ∧ exec .rdRpo s = .fault (.portHoldsNoValue .rdRpo)

/-- 42_record_decoder.md R177: no output of RD depends on `P[1..21]`, `P[26]`, `P[30..34]`, `P[39]`, `P[44]`, `P[49]`,
`P[54]`, `P[59]`, `P[64]` or `P[69]`; nor, when AUTH or LEN already fails, on `P[0]` or any other byte. -/
def Obligations.RdIgnoresUnreadPayloadBytes : Prop :=
  (∀ s s' : State, s.rdIn.len = s'.rdIn.len → s.rdIn.authFail = s'.rdIn.authFail →
    (∀ i, ¬(1 ≤ i ∧ i ≤ 21 ∨ i = 26 ∨ 30 ≤ i ∧ i ≤ 34 ∨ i = 39 ∨ i = 44 ∨ i = 49 ∨ i = 54 ∨ i = 59 ∨ i = 64 ∨ i = 69) →
      readByte .payload i s = readByte .payload i s') →
    rdPortsOf s = rdPortsOf s') ∧
  (∀ s s' : State, s.rdIn.len = s'.rdIn.len → s.rdIn.authFail = s'.rdIn.authFail →
    s.rdIn.authFail = true ∨ s.rdIn.len ≠ 74#8 → rdPortsOf s = rdPortsOf s')

/-! ## The engine and the reading path -/

/-- 60_exceptions.md R219, 10_state.md R30: how the engine's result drives RD's input ports, and that RD then always
answers, with its output ports the functions of those inputs (42_record_decoder.md R160) and nothing else changed. -/
def Obligations.EngineResultDrivesRd : Prop :=
  ∀ (plain : List Byte) (ok : Bool) (s : State),
    ∃ t, presentResult plain ok s = .next t ∧
      t.rdIn.len.toNat = min plain.length 255 ∧
      (∀ i, i < 74 → i < plain.length → readByte .payload i t = .ok (plain.getD i 0#8)) ∧
      (∀ i, i < 74 → plain.length ≤ i → readByte .payload i t = .error (.readNone (.entry .payload i))) ∧
      t.rdIn.authFail = (s.build.authChecked && !ok) ∧ RdAgree t ∧
      t = { s with rdIn := t.rdIn, rd := t.rd }

/-- 60_exceptions.md R219: the reading path hands the engine `nonce(F)` and `ct(F)` of the frame in `last_frame`; what
the engine returns drives `rd_len`, every entry of `rd_pl` and `rd_auth_fail`, RD's outputs are the functions of them,
and nothing else changes: for every engine and every key. -/
def Obligations.ReadingPathDecodesEngineResult : Prop :=
  ∀ (dec : Decrypt) (key : List Byte) (s : State), FrameWhole s →
    ∃ nonce ct t, nbNonceValue s = .ok nonce ∧ nonce.length = 12 ∧ nbCtValue s = .ok ct ∧ ct.length = 74 ∧
      readingPath dec key s = .next t ∧ RdAgree t ∧
      presentResult (dec key nonce ct).1 (dec key nonce ct).2 s = .next t ∧
      t.rdIn.len.toNat = min (dec key nonce ct).1.length 255 ∧
      (∀ i, i < 74 → i < (dec key nonce ct).1.length →
        readByte .payload i t = .ok ((dec key nonce ct).1.getD i 0#8)) ∧
      (∀ i, i < 74 → (dec key nonce ct).1.length ≤ i →
        readByte .payload i t = .error (.readNone (.entry .payload i))) ∧
      t.rdIn.authFail = (s.build.authChecked && !(dec key nonce ct).2) ∧
      t = { s with rdIn := t.rdIn, rd := t.rd } ∧ t.fs = s.fs ∧ t.last = s.last ∧
      (t.rd.ok = true ↔ (s.build.authChecked = true → (dec key nonce ct).2 = true) ∧
        (dec key nonce ct).1.length = 74 ∧ (dec key nonce ct).1[0]? = some Config.payloadTag)

/-! ## Invariants -/

/-- 10_state.md R31 holds right after RESET, and the ports agree with the registers there. The values of RD's ports
there are the model's choice (log 4). -/
def Obligations.ResetStateIsLegal : Prop :=
  FsInv State.reset ∧ RdInputsLegal State.reset ∧ memoriesWf State.reset = true ∧ NbAgree State.reset ∧
    RdAgree State.reset

/-- 10_state.md R31: every step keeps the invariants of FS, for either form of `HUNT_LIMIT`. -/
def Obligations.StepKeepsFsInvariant : Prop :=
  ∀ s t : State, FsInv s → step s = .next t → FsInv t

/-- 10_state.md R31, 70_reset_and_hazards.md R230: from any state at all, RESET and then any words whatever run to
the end, and the state reached satisfies (i) to (v). -/
def Obligations.EveryRunFromResetIsLegal : Prop :=
  ∀ (s : State) (ws : List StreamWord), s.build.huntLimit ≠ some 0 →
    ∃ t, takeWords (0x400#11 :: ws) s = some t ∧ FsInv t

/-- Every step keeps every byte space in canonical form (20_memory.md R50: no index outside a space is formed). -/
def Obligations.StepKeepsMemoriesCanonical : Prop :=
  ∀ s t : State, memoriesWf s = true → step s = .next t → memoriesWf t = true

/-- 41_nonce_builder.md R140, 42_record_decoder.md R160: every step keeps NB's and RD's output ports equal to their
functions of `last_frame` and of RD's inputs: nothing of them is state of its own. -/
def Obligations.StepKeepsPortsCombinational : Prop :=
  ∀ s t : State, NbAgree s → RdAgree s → step s = .next t → NbAgree t ∧ RdAgree t

/-- 60_exceptions.md R219, 10_state.md R30: every step keeps RD's input ports legal: entries below `rd_len` and no
others hold values, and `rd_auth_fail` is tied to 0 when `AUTH_CHECKED` is false. -/
def Obligations.StepKeepsRdInputsLegal : Prop :=
  ∀ s t : State, RdInputsLegal s → step s = .next t → RdInputsLegal t

/-- 10_state.md R35: the build-time parameters are never written. -/
def Obligations.StepNeverWritesBuildParameters : Prop :=
  ∀ s t : State, step s = .next t → t.build = s.build

/-! ## Rules about the whole machine -/

/-- 60_exceptions.md R207 (c): FS emits at most one of its three pulses in a step. -/
def Obligations.AtMostOnePulsePerStep : Prop :=
  ∀ (w : StreamWord) (s t : State), takeWord w s = .next t →
    ¬(t.pulses.frameDone = true ∧ t.pulses.connErr = true) ∧
    ¬(t.pulses.frameDone = true ∧ t.pulses.desyncErr = true) ∧
    ¬(t.pulses.connErr = true ∧ t.pulses.desyncErr = true)

/-- 10_state.md R26: which words emit which pulse: `frame_done` only a BYTE word carrying the marker, `conn_err`
exactly FAIL words, `desync_err` only a BYTE word and only if `HUNT_LIMIT` is not none. -/
def Obligations.PulsesComeFromTheirWords : Prop :=
  ∀ (w : StreamWord) (s t : State), takeWord w s = .next t →
    (t.pulses.frameDone = true → decode w = .byte Config.marker ∧ t.last.valid = some true) ∧
    (t.pulses.connErr = true ↔ decode w = .fail) ∧
    (t.pulses.desyncErr = true → (∃ b, decode w = .byte b) ∧ s.build.huntLimit ≠ none)

/-- 10_state.md R27, R28: `last_frame` and `last_valid` change only where a frame is accepted (which sets
`last_valid`) or at a RESET (which clears it). -/
def Obligations.LastFrameChangesOnlyOnAcceptOrReset : Prop :=
  ∀ (w : StreamWord) (s t : State), takeWord w s = .next t → t.last ≠ s.last →
    (decode w = .reset ∧ t.last.valid = some false) ∨ (t.pulses.frameDone = true ∧ t.last.valid = some true)

/-- 60_exceptions.md R217, 20_memory.md R58: what the engine and the host do between steps touches no register of
FS, no frame and no pulse. -/
def Obligations.HostActionsLeaveFsAlone : Prop :=
  (∀ plain ok (s t : State), presentResult plain ok s = .next t →
    t.fs = s.fs ∧ t.last = s.last ∧ t.pulses = s.pulses ∧ t.fsEvents = s.fsEvents ∧ t.nb = s.nb ∧ t.build = s.build) ∧
  (∀ i (s t : State), evaluateOp i s = .next t →
    t.fs = s.fs ∧ t.last = s.last ∧ t.pulses = s.pulses ∧ t.fsEvents = s.fsEvents ∧ t.rdIn = s.rdIn ∧
      t.build = s.build)

/-- 20_memory.md R58: evaluating any NB or RD operation changes no state once the ports carry their functions'
values. -/
def Obligations.EvaluatingPortsIsIdempotent : Prop :=
  ∀ (i : Instr) (s t : State), i.format = .comb → NbAgree s → RdAgree s → exec i s = .next t → t = s

/-- 70_reset_and_hazards.md R234: from the start of a candidate no sequence of at most 104 words ends with
`frame_done`. -/
def Obligations.NextFrameTakes105Words : Prop :=
  ∀ (ws : List StreamWord) (s t : State), AtCandidateStart s → ws ≠ [] → ws.length ≤ 104 →
    takeWords ws s = some t → t.pulses.frameDone = false

/-- 40_frame_sync.md R116: with `HUNT_LIMIT` = none, FS hunts through any number of bytes that are not the marker. -/
def Obligations.HuntHasNoBound : Prop :=
  ∀ (bs : List Byte) (s : State), s.build.huntLimit = none → s.fs.mode = some .hunt →
    (∀ b, b ∈ bs → b ≠ Config.marker) →
    ∃ t, takeWords (streamOf bs) s = some t ∧ t.fs = s.fs ∧ t.last = s.last ∧ (bs ≠ [] → t.pulses = noPulses)

/-- 40_frame_sync.md R109: with `HUNT_LIMIT` = some N, N <= 105, every rejection times out at once and FS never enters
HUNT. -/
def Obligations.ShortLimitNeverHunts : Prop :=
  ∀ (w : StreamWord) (s t : State) (n : Nat), s.build.huntLimit = some n → n ≤ 105 → s.fs.mode ≠ some .hunt →
    takeWord w s = .next t → t.fs.mode ≠ some .hunt

/-- 40_frame_sync.md R104, R105, R113: from the start of a candidate, any 105 bytes whose first and last are the
marker are accepted with the last of them, unchanged, whatever the other bytes are and whatever `HUNT_LIMIT` is. -/
def Obligations.AlignedFrameIsAcceptedWhole : Prop :=
  ∀ (f : List Byte) (s : State), AtCandidateStart s → f.length = 105 → f[0]? = some Config.marker →
    f[104]? = some Config.marker →
    ∃ u, frameTrace (streamOf f) 0 s = some ([(105, f)], u) ∧ AtCandidateStart u ∧ u.last.valid = some true

/-- 40_frame_sync.md R111: after RESET, on BYTE words with any IDLE words mixed in, the frames FS delivers and the
BYTE words they come with are exactly those of the reference reader, and FS ends where the reader's last call fails. -/
def Obligations.FsMatchesReferenceReader : Prop :=
  ∀ (ws : List StreamWord) (s : State), s.build.huntLimit = none →
    (∀ w, w ∈ ws → decode w = .idle ∨ ∃ b, decode w = .byte b) →
    ∃ t u, exec .reset s = .next t ∧ frameTrace ws 0 t = some ((framesRef (bytesOf ws)).1, u) ∧
      match (framesRef (bytesOf ws)).2 with
      | .inReadExact c => u.fs.mode = some .collect ∧ ∃ k, u.fs.count = some k ∧ k.toNat = c
      | .inReadUntil => u.fs.mode = some .hunt

/-- 40_frame_sync.md R115: back-to-back frames with no marker inside, entered k bytes late (1 <= k <= 104): the first
105 bytes are rejected and the hunt consumes the rest of the second frame, up to its last byte; the third is accepted
on the (315 - k)-th BYTE word and is the only one; entered aligned, each is accepted on its last byte. -/
def Obligations.OneResyncCost : Prop :=
  ∀ (f1 f2 f3 : List Byte) (s : State), s.build.huntLimit = none → AtCandidateStart s →
    CleanFrame f1 → CleanFrame f2 → CleanFrame f3 →
    (∀ k, 1 ≤ k → k ≤ 104 →
      (∀ j, k ≤ j → j ≤ 104 →
        ∃ u, frameTrace (streamOf (f1.drop k ++ f2.take j)) 0 s = some ([], u) ∧ u.fs.mode = some .hunt) ∧
      (∃ u, frameTrace (streamOf (f1.drop k ++ f2)) 0 s = some ([], u) ∧ u.fs.mode = some .collect ∧
        u.fs.count = some 0#7) ∧
      (∃ u, frameTrace (streamOf (f1.drop k ++ f2 ++ f3)) 0 s = some ([(315 - k, f3)], u))) ∧
    (∃ u, frameTrace (streamOf (f1 ++ f2 ++ f3)) 0 s = some ([(105, f1), (210, f2), (315, f3)], u))

/-! ## The build -/

/-- 00_scope.md R5, R13: the block is built for either form of `HUNT_LIMIT` (N >= 1) and either value of
`AUTH_CHECKED`, in the power-on state; any other value of any parameter R5 fixes is refused, as is a limit of 0
(log 13). -/
def Obligations.BuildRefusesUnsupportedParameters : Prop :=
  (∀ limit auth, limit ≠ some 0 →
    buildBlock (Config.params limit auth) = .next (State.powerOn { huntLimit := limit, authChecked := auth })) ∧
  (∀ p : Config.Params, p.marker ≠ 0x7E#8 ∨ p.frameLen ≠ 105 ∨ p.stOff ≠ 14 ∨ p.stLen ≠ 8 ∨ p.icOff ≠ 24 ∨
      p.icLen ≠ 4 ∨ p.nonceLen ≠ 12 ∨ p.ctOff ≠ 28 ∨ p.trailLen ≠ 3 ∨ p.payloadLen ≠ 74 ∨ p.payloadTag ≠ 0x0F#8 ∨
      p.huntLimit = some 0 →
    ∃ x, buildBlock p = .refused (.unsupportedParameter x))
end

