-- ==== Sys2Proof/Laws/Memory.lean ====
section
/-! SUPPORT. The laws of byte spaces: what a read gives after a write, and that every operation keeps the canonical
form. -/
namespace Sys2Proof.Machine

@[simp] theorem read_invalidated (i : Nat) : Memory.read Memory.invalidated i = none := rfl

@[simp] theorem read_nil (i : Nat) : Memory.read [] i = none := rfl

theorem read_write_same (m : Memory) (i : Nat) (v : Byte) : (m.write i v).read i = some v := by
  induction m with
  | nil => simp [Memory.write, Memory.read]
  | cons kb m ih =>
    obtain ⟨k, b⟩ := kb
    unfold Memory.write
    split
    · simp [Memory.read]
    · split
      · simp [Memory.read]
      · rename_i h
        simp [Memory.read, h, ih]

theorem read_write_other (m : Memory) {i j : Nat} (v : Byte) (h : j ≠ i) : (m.write i v).read j = m.read j := by
  induction m with
  | nil => simp [Memory.write, Memory.read, h, Memory.unlisted]
  | cons kb m ih =>
    obtain ⟨k, b⟩ := kb
    unfold Memory.write
    split
    · simp [Memory.read, h]
    · split
      · rename_i hk
        subst hk
        simp [Memory.read, h]
      · simp [Memory.read, ih]

theorem read_write (m : Memory) (i j : Nat) (v : Byte) :
    (m.write i v).read j = if j = i then some v else m.read j := by
  split
  · rename_i h
    subst h
    exact read_write_same m j v
  · rename_i h
    exact read_write_other m v h

/-- After a write of consecutive bytes, an entry inside holds its byte and an entry outside is unchanged. -/
theorem read_writeBytes (bs : List Byte) (m : Memory) (o j : Nat) :
    (m.writeBytes o bs).read j = if o ≤ j ∧ j < o + bs.length then bs[j - o]? else m.read j := by
  induction bs generalizing m o with
  | nil =>
    have : ¬(o ≤ j ∧ j < o + 0) := by omega
    simp [Memory.writeBytes]
  | cons b bs ih =>
    rw [Memory.writeBytes, ih, read_write]
    by_cases h1 : o + 1 ≤ j ∧ j < o + 1 + bs.length
    · have h2 : o ≤ j ∧ j < o + (b :: bs).length := by simp only [List.length_cons]; omega
      rw [if_pos h1, if_pos h2]
      have : j - o = j - (o + 1) + 1 := by omega
      rw [this, List.getElem?_cons_succ]
    · rw [if_neg h1]
      by_cases h3 : j = o
      · subst h3
        simp
      · have h2 : ¬(o ≤ j ∧ j < o + (b :: bs).length) := by simp only [List.length_cons]; omega
        rw [if_neg h3, if_neg h2]

theorem wfFrom_weaken (m : Memory) {size lo lo' : Nat} (h : lo' ≤ lo) (hw : Memory.wfFrom size lo m = true) :
    Memory.wfFrom size lo' m = true := by
  cases m with
  | nil => rfl
  | cons kb m =>
    simp only [Memory.wfFrom, Bool.and_eq_true, decide_eq_true_eq] at hw ⊢
    exact ⟨⟨by omega, hw.1.2⟩, hw.2⟩

theorem wfFrom_write (m : Memory) {size lo i : Nat} (v : Byte) (hlo : lo ≤ i) (hi : i < size)
    (hw : Memory.wfFrom size lo m = true) : Memory.wfFrom size lo (m.write i v) = true := by
  induction m generalizing lo with
  | nil => simp [Memory.write, Memory.wfFrom, hlo, hi]
  | cons kb m ih =>
    obtain ⟨k, b⟩ := kb
    simp only [Memory.wfFrom, Bool.and_eq_true, decide_eq_true_eq] at hw
    unfold Memory.write
    split
    · rename_i h
      simp only [Memory.wfFrom, Bool.and_eq_true, decide_eq_true_eq]
      exact ⟨⟨hlo, hi⟩, ⟨by omega, hw.1.2⟩, hw.2⟩
    · split
      · rename_i h
        subst h
        simp only [Memory.wfFrom, Bool.and_eq_true, decide_eq_true_eq]
        exact ⟨⟨hlo, hi⟩, hw.2⟩
      · rename_i h1 h2
        simp only [Memory.wfFrom, Bool.and_eq_true, decide_eq_true_eq]
        exact ⟨hw.1, ih (by omega) hw.2⟩

/-- A write inside the space keeps the canonical form. -/
theorem wf_write (m : Memory) {size i : Nat} (v : Byte) (hi : i < size) (hw : m.wf size = true) :
    (m.write i v).wf size = true :=
  wfFrom_write m v (Nat.zero_le i) hi hw

/-- A write of consecutive bytes inside the space keeps the canonical form. -/
theorem wf_writeBytes (bs : List Byte) (m : Memory) {size o : Nat} (h : o + bs.length ≤ size)
    (hw : m.wf size = true) : (m.writeBytes o bs).wf size = true := by
  induction bs generalizing m o with
  | nil => exact hw
  | cons b bs ih =>
    simp only [List.length_cons] at h
    exact ih _ (by omega) (wf_write m b (by omega) hw)

/-- Invalidating a space leaves it in canonical form. -/
@[simp] theorem wf_invalidated (size : Nat) : Memory.wf size Memory.invalidated = true := rfl

@[simp] theorem wf_nil (size : Nat) : Memory.wf size [] = true := rfl

theorem wfFrom_read_below (m : Memory) {size lo i : Nat} (h : i < lo) (hw : Memory.wfFrom size lo m = true) :
    m.read i = none := by
  induction m generalizing lo with
  | nil => rfl
  | cons kb m ih =>
    obtain ⟨k, b⟩ := kb
    simp only [Memory.wfFrom, Bool.and_eq_true, decide_eq_true_eq] at hw
    have : i ≠ k := by omega
    simp only [Memory.read, this, if_false]
    exact ih (by omega) hw.2

/-- A space in canonical form lists no entry outside it. -/
theorem wf_read_outside (m : Memory) {size i : Nat} (h : size ≤ i) (hw : m.wf size = true) : m.read i = none := by
  unfold Memory.wf at hw
  generalize 0 = lo at hw
  induction m generalizing lo with
  | nil => rfl
  | cons kb m ih =>
    obtain ⟨k, b⟩ := kb
    simp only [Memory.wfFrom, Bool.and_eq_true, decide_eq_true_eq] at hw
    have : i ≠ k := by omega
    simp only [Memory.read, this, if_false]
    exact ih _ hw.2

/-- Two spaces in canonical form that read alike are equal. -/
theorem wf_ext (m m' : Memory) {size : Nat} (hw : m.wf size = true) (hw' : m'.wf size = true)
    (h : ∀ i, m.read i = m'.read i) : m = m' := by
  unfold Memory.wf at hw hw'
  generalize 0 = lo at hw hw'
  induction m generalizing m' lo with
  | nil =>
    cases m' with
    | nil => rfl
    | cons kb m' => have := h kb.1; simp [Memory.read, Memory.unlisted] at this
  | cons kb m ih =>
    obtain ⟨k, b⟩ := kb
    cases m' with
    | nil => have := h k; simp [Memory.read, Memory.unlisted] at this
    | cons kb' m' =>
      obtain ⟨k', b'⟩ := kb'
      simp only [Memory.wfFrom, Bool.and_eq_true, decide_eq_true_eq] at hw hw'
      have hk : k = k' := by
        rcases Nat.lt_trichotomy k k' with hlt | heq | hgt
        · have h1 := h k
          have : k ≠ k' := by omega
          simp [Memory.read, this, wfFrom_read_below m' (show k < k' + 1 by omega) hw'.2] at h1
        · exact heq
        · have h1 := h k'
          have : k' ≠ k := by omega
          simp [Memory.read, this, wfFrom_read_below m (show k' < k + 1 by omega) hw.2] at h1
      subst hk
      have hb := h k
      simp only [Memory.read, if_true, Option.some.injEq] at hb
      subst hb
      congr 1
      refine ih m' (fun i => ?_) (k + 1) hw.2 hw'.2
      by_cases hi : i = k
      · subst hi
        rw [wfFrom_read_below m (Nat.lt_succ_self i) hw.2, wfFrom_read_below m' (Nat.lt_succ_self i) hw'.2]
      · have := h i
        simpa [Memory.read, hi] using this

end Sys2Proof.Machine
end

