-- ==== Sys2Proof/Laws/State.lean ====
section
/-! SUPPORT. Each field after each update of the state: what a later proof uses in place of unfolding an update. -/
namespace Sys2Proof.Machine

@[simp] theorem beginStep_build (s : State) : (beginStep s).build = s.build := rfl
@[simp] theorem beginStep_fs (s : State) : (beginStep s).fs = s.fs := rfl
@[simp] theorem beginStep_last (s : State) : (beginStep s).last = s.last := rfl
@[simp] theorem beginStep_pulses (s : State) : (beginStep s).pulses = noPulses := rfl
@[simp] theorem beginStep_fsEvents (s : State) : (beginStep s).fsEvents = [] := rfl
@[simp] theorem beginStep_nb (s : State) : (beginStep s).nb = s.nb := rfl
@[simp] theorem beginStep_rdIn (s : State) : (beginStep s).rdIn = s.rdIn := rfl
@[simp] theorem beginStep_rd (s : State) : (beginStep s).rd = s.rd := rfl
@[simp] theorem beginStep_input (s : State) : (beginStep s).input = s.input := rfl

@[simp] theorem emitFrameDone_build (s : State) : (emitFrameDone s).build = s.build := rfl
@[simp] theorem emitFrameDone_fs (s : State) : (emitFrameDone s).fs = s.fs := rfl
@[simp] theorem emitFrameDone_last (s : State) : (emitFrameDone s).last = s.last := rfl
@[simp] theorem emitFrameDone_pulses (s : State) : (emitFrameDone s).pulses = { s.pulses with frameDone := true } := rfl
@[simp] theorem emitFrameDone_fsEvents (s : State) : (emitFrameDone s).fsEvents = s.fsEvents := rfl
@[simp] theorem emitFrameDone_nb (s : State) : (emitFrameDone s).nb = s.nb := rfl
@[simp] theorem emitFrameDone_rdIn (s : State) : (emitFrameDone s).rdIn = s.rdIn := rfl
@[simp] theorem emitFrameDone_rd (s : State) : (emitFrameDone s).rd = s.rd := rfl
@[simp] theorem emitFrameDone_input (s : State) : (emitFrameDone s).input = s.input := rfl

@[simp] theorem dropCandidate_build (s : State) : (dropCandidate s).build = s.build := rfl
@[simp] theorem dropCandidate_fs (s : State) : (dropCandidate s).fs = { s.fs with count := some 0#7, buf := Memory.invalidated } := rfl
@[simp] theorem dropCandidate_last (s : State) : (dropCandidate s).last = s.last := rfl
@[simp] theorem dropCandidate_pulses (s : State) : (dropCandidate s).pulses = s.pulses := rfl
@[simp] theorem dropCandidate_fsEvents (s : State) : (dropCandidate s).fsEvents = s.fsEvents := rfl
@[simp] theorem dropCandidate_nb (s : State) : (dropCandidate s).nb = s.nb := rfl
@[simp] theorem dropCandidate_rdIn (s : State) : (dropCandidate s).rdIn = s.rdIn := rfl
@[simp] theorem dropCandidate_rd (s : State) : (dropCandidate s).rd = s.rd := rfl
@[simp] theorem dropCandidate_input (s : State) : (dropCandidate s).input = s.input := rfl

@[simp] theorem storeCandidate_build (c : BitVec 7) (b : Byte) (s : State) : (storeCandidate c b s).build = s.build := rfl
@[simp] theorem storeCandidate_fs (c : BitVec 7) (b : Byte) (s : State) : (storeCandidate c b s).fs = { s.fs with count := some (c + 1#7), buf := s.fs.buf.write c.toNat b } := rfl
@[simp] theorem storeCandidate_last (c : BitVec 7) (b : Byte) (s : State) : (storeCandidate c b s).last = s.last := rfl
@[simp] theorem storeCandidate_pulses (c : BitVec 7) (b : Byte) (s : State) : (storeCandidate c b s).pulses = s.pulses := rfl
@[simp] theorem storeCandidate_fsEvents (c : BitVec 7) (b : Byte) (s : State) : (storeCandidate c b s).fsEvents = s.fsEvents := rfl
@[simp] theorem storeCandidate_nb (c : BitVec 7) (b : Byte) (s : State) : (storeCandidate c b s).nb = s.nb := rfl
@[simp] theorem storeCandidate_rdIn (c : BitVec 7) (b : Byte) (s : State) : (storeCandidate c b s).rdIn = s.rdIn := rfl
@[simp] theorem storeCandidate_rd (c : BitVec 7) (b : Byte) (s : State) : (storeCandidate c b s).rd = s.rd := rfl
@[simp] theorem storeCandidate_input (c : BitVec 7) (b : Byte) (s : State) : (storeCandidate c b s).input = s.input := rfl

@[simp] theorem setMode_build (m : FsMode) (s : State) : (setMode m s).build = s.build := rfl
@[simp] theorem setMode_fs (m : FsMode) (s : State) : (setMode m s).fs = { s.fs with mode := some m } := rfl
@[simp] theorem setMode_last (m : FsMode) (s : State) : (setMode m s).last = s.last := rfl
@[simp] theorem setMode_pulses (m : FsMode) (s : State) : (setMode m s).pulses = s.pulses := rfl
@[simp] theorem setMode_fsEvents (m : FsMode) (s : State) : (setMode m s).fsEvents = s.fsEvents := rfl
@[simp] theorem setMode_nb (m : FsMode) (s : State) : (setMode m s).nb = s.nb := rfl
@[simp] theorem setMode_rdIn (m : FsMode) (s : State) : (setMode m s).rdIn = s.rdIn := rfl
@[simp] theorem setMode_rd (m : FsMode) (s : State) : (setMode m s).rd = s.rd := rfl
@[simp] theorem setMode_input (m : FsMode) (s : State) : (setMode m s).input = s.input := rfl

@[simp] theorem setDisc_build (d : Nat) (s : State) : (setDisc d s).build = s.build := rfl
@[simp] theorem setDisc_fs (d : Nat) (s : State) : (setDisc d s).fs = { s.fs with disc := some d } := rfl
@[simp] theorem setDisc_last (d : Nat) (s : State) : (setDisc d s).last = s.last := rfl
@[simp] theorem setDisc_pulses (d : Nat) (s : State) : (setDisc d s).pulses = s.pulses := rfl
@[simp] theorem setDisc_fsEvents (d : Nat) (s : State) : (setDisc d s).fsEvents = s.fsEvents := rfl
@[simp] theorem setDisc_nb (d : Nat) (s : State) : (setDisc d s).nb = s.nb := rfl
@[simp] theorem setDisc_rdIn (d : Nat) (s : State) : (setDisc d s).rdIn = s.rdIn := rfl
@[simp] theorem setDisc_rd (d : Nat) (s : State) : (setDisc d s).rd = s.rd := rfl
@[simp] theorem setDisc_input (d : Nat) (s : State) : (setDisc d s).input = s.input := rfl

@[simp] theorem setLastFrame_build (bs : List Byte) (s : State) : (setLastFrame bs s).build = s.build := rfl
@[simp] theorem setLastFrame_fs (bs : List Byte) (s : State) : (setLastFrame bs s).fs = s.fs := rfl
@[simp] theorem setLastFrame_last (bs : List Byte) (s : State) : (setLastFrame bs s).last = { bytes := s.last.bytes.writeBytes 0 bs, valid := some true } := rfl
@[simp] theorem setLastFrame_pulses (bs : List Byte) (s : State) : (setLastFrame bs s).pulses = s.pulses := rfl
@[simp] theorem setLastFrame_fsEvents (bs : List Byte) (s : State) : (setLastFrame bs s).fsEvents = s.fsEvents := rfl
@[simp] theorem setLastFrame_nb (bs : List Byte) (s : State) : (setLastFrame bs s).nb = s.nb := rfl
@[simp] theorem setLastFrame_rdIn (bs : List Byte) (s : State) : (setLastFrame bs s).rdIn = s.rdIn := rfl
@[simp] theorem setLastFrame_rd (bs : List Byte) (s : State) : (setLastFrame bs s).rd = s.rd := rfl
@[simp] theorem setLastFrame_input (bs : List Byte) (s : State) : (setLastFrame bs s).input = s.input := rfl

@[simp] theorem clearLastFrame_build (s : State) : (clearLastFrame s).build = s.build := rfl
@[simp] theorem clearLastFrame_fs (s : State) : (clearLastFrame s).fs = s.fs := rfl
@[simp] theorem clearLastFrame_last (s : State) : (clearLastFrame s).last = { bytes := Memory.invalidated, valid := some false } := rfl
@[simp] theorem clearLastFrame_pulses (s : State) : (clearLastFrame s).pulses = s.pulses := rfl
@[simp] theorem clearLastFrame_fsEvents (s : State) : (clearLastFrame s).fsEvents = s.fsEvents := rfl
@[simp] theorem clearLastFrame_nb (s : State) : (clearLastFrame s).nb = s.nb := rfl
@[simp] theorem clearLastFrame_rdIn (s : State) : (clearLastFrame s).rdIn = s.rdIn := rfl
@[simp] theorem clearLastFrame_rd (s : State) : (clearLastFrame s).rd = s.rd := rfl
@[simp] theorem clearLastFrame_input (s : State) : (clearLastFrame s).input = s.input := rfl

@[simp] theorem settleNb_build (s : State) : (settleNb s).build = s.build := rfl
@[simp] theorem settleNb_fs (s : State) : (settleNb s).fs = s.fs := rfl
@[simp] theorem settleNb_last (s : State) : (settleNb s).last = s.last := rfl
@[simp] theorem settleNb_pulses (s : State) : (settleNb s).pulses = s.pulses := rfl
@[simp] theorem settleNb_fsEvents (s : State) : (settleNb s).fsEvents = s.fsEvents := rfl
@[simp] theorem settleNb_nb (s : State) : (settleNb s).nb = nbPortsOf s := rfl
@[simp] theorem settleNb_rdIn (s : State) : (settleNb s).rdIn = s.rdIn := rfl
@[simp] theorem settleNb_rd (s : State) : (settleNb s).rd = s.rd := rfl
@[simp] theorem settleNb_input (s : State) : (settleNb s).input = s.input := rfl

@[simp] theorem driveCheckOk_build (s : State) : (driveCheckOk s).build = s.build := rfl
@[simp] theorem driveCheckOk_fs (s : State) : (driveCheckOk s).fs = s.fs := rfl
@[simp] theorem driveCheckOk_last (s : State) : (driveCheckOk s).last = s.last := rfl
@[simp] theorem driveCheckOk_pulses (s : State) : (driveCheckOk s).pulses = s.pulses := rfl
@[simp] theorem driveCheckOk_fsEvents (s : State) : (driveCheckOk s).fsEvents = s.fsEvents := rfl
@[simp] theorem driveCheckOk_nb (s : State) : (driveCheckOk s).nb = s.nb := rfl
@[simp] theorem driveCheckOk_rdIn (s : State) : (driveCheckOk s).rdIn = s.rdIn := rfl
@[simp] theorem driveCheckOk_rd (s : State) : (driveCheckOk s).rd = { s.rd with ok := true, err := false, cause := .noCause } := rfl
@[simp] theorem driveCheckOk_input (s : State) : (driveCheckOk s).input = s.input := rfl

@[simp] theorem driveRd_build (p : List Byte) (a : Bool) (s : State) : (driveRd p a s).build = s.build := rfl
@[simp] theorem driveRd_fs (p : List Byte) (a : Bool) (s : State) : (driveRd p a s).fs = s.fs := rfl
@[simp] theorem driveRd_last (p : List Byte) (a : Bool) (s : State) : (driveRd p a s).last = s.last := rfl
@[simp] theorem driveRd_pulses (p : List Byte) (a : Bool) (s : State) : (driveRd p a s).pulses = s.pulses := rfl
@[simp] theorem driveRd_fsEvents (p : List Byte) (a : Bool) (s : State) : (driveRd p a s).fsEvents = s.fsEvents := rfl
@[simp] theorem driveRd_nb (p : List Byte) (a : Bool) (s : State) : (driveRd p a s).nb = s.nb := rfl
@[simp] theorem driveRd_rdIn (p : List Byte) (a : Bool) (s : State) : (driveRd p a s).rdIn = { len := BitVec.ofNat 8 (min p.length 255), pl := Memory.writeBytes Memory.invalidated 0 (p.take Config.payloadLen), authFail := s.build.authChecked && !a } := rfl
@[simp] theorem driveRd_rd (p : List Byte) (a : Bool) (s : State) : (driveRd p a s).rd = s.rd := rfl
@[simp] theorem driveRd_input (p : List Byte) (a : Bool) (s : State) : (driveRd p a s).input = s.input := rfl

@[simp] theorem placeWord_build (w : StreamWord) (s : State) : (placeWord w s).build = s.build := rfl
@[simp] theorem placeWord_fs (w : StreamWord) (s : State) : (placeWord w s).fs = s.fs := rfl
@[simp] theorem placeWord_last (w : StreamWord) (s : State) : (placeWord w s).last = s.last := rfl
@[simp] theorem placeWord_pulses (w : StreamWord) (s : State) : (placeWord w s).pulses = s.pulses := rfl
@[simp] theorem placeWord_fsEvents (w : StreamWord) (s : State) : (placeWord w s).fsEvents = s.fsEvents := rfl
@[simp] theorem placeWord_nb (w : StreamWord) (s : State) : (placeWord w s).nb = s.nb := rfl
@[simp] theorem placeWord_rdIn (w : StreamWord) (s : State) : (placeWord w s).rdIn = s.rdIn := rfl
@[simp] theorem placeWord_rd (w : StreamWord) (s : State) : (placeWord w s).rd = s.rd := rfl
@[simp] theorem placeWord_input (w : StreamWord) (s : State) : (placeWord w s).input = .word w :: s.input := rfl

@[simp] theorem raiseEvent_build (e : Event) (s : State) : (raiseEvent e s).build = s.build := by cases e <;> rfl
@[simp] theorem raiseEvent_fs (e : Event) (s : State) : (raiseEvent e s).fs = s.fs := by cases e <;> rfl
@[simp] theorem raiseEvent_last (e : Event) (s : State) : (raiseEvent e s).last = s.last := by cases e <;> rfl
@[simp] theorem raiseEvent_nb (e : Event) (s : State) : (raiseEvent e s).nb = s.nb := by cases e <;> rfl
@[simp] theorem raiseEvent_rdIn (e : Event) (s : State) : (raiseEvent e s).rdIn = s.rdIn := by cases e <;> rfl
@[simp] theorem raiseEvent_input (e : Event) (s : State) : (raiseEvent e s).input = s.input := by cases e <;> rfl

@[simp] theorem raiseEvent_connectionError_pulses (s : State) :
    (raiseEvent .connectionError s).pulses = { s.pulses with connErr := true } := rfl
@[simp] theorem raiseEvent_framingDesync_pulses (s : State) : (raiseEvent .framingDesync s).pulses = s.pulses := rfl
@[simp] theorem raiseEvent_framingDesyncTimeout_pulses (s : State) :
    (raiseEvent .framingDesyncTimeout s).pulses = { s.pulses with desyncErr := true } := rfl
@[simp] theorem raiseEvent_decryptionError_pulses (c : RdCause) (s : State) :
    (raiseEvent (.decryptionError c) s).pulses = s.pulses := rfl
@[simp] theorem raiseEvent_connectionError_fsEvents (s : State) :
    (raiseEvent .connectionError s).fsEvents = s.fsEvents ++ [.connectionError] := rfl
@[simp] theorem raiseEvent_framingDesync_fsEvents (s : State) :
    (raiseEvent .framingDesync s).fsEvents = s.fsEvents ++ [.framingDesync] := rfl
@[simp] theorem raiseEvent_framingDesyncTimeout_fsEvents (s : State) :
    (raiseEvent .framingDesyncTimeout s).fsEvents = s.fsEvents ++ [.framingDesyncTimeout] := rfl
@[simp] theorem raiseEvent_decryptionError_fsEvents (c : RdCause) (s : State) :
    (raiseEvent (.decryptionError c) s).fsEvents = s.fsEvents := rfl
@[simp] theorem raiseEvent_connectionError_rd (s : State) : (raiseEvent .connectionError s).rd = s.rd := rfl
@[simp] theorem raiseEvent_framingDesync_rd (s : State) : (raiseEvent .framingDesync s).rd = s.rd := rfl
@[simp] theorem raiseEvent_framingDesyncTimeout_rd (s : State) :
    (raiseEvent .framingDesyncTimeout s).rd = s.rd := rfl
@[simp] theorem raiseEvent_decryptionError_rd (c : RdCause) (s : State) :
    (raiseEvent (.decryptionError c) s).rd = RdPorts.failed c := rfl

@[simp] theorem spaceOf_cand (s : State) : spaceOf .cand s = s.fs.buf := rfl
@[simp] theorem spaceOf_frame (s : State) : spaceOf .frame s = s.last.bytes := rfl
@[simp] theorem spaceOf_payload (s : State) : spaceOf .payload s = s.rdIn.pl := rfl
@[simp] theorem spaceSize_cand : spaceSize .cand = 105 := rfl
@[simp] theorem spaceSize_frame : spaceSize .frame = 105 := rfl
@[simp] theorem spaceSize_payload : spaceSize .payload = 74 := rfl

@[simp] theorem nbPortsOf_valid (s : State) : (nbPortsOf s).valid = s.last.valid := rfl
@[simp] theorem nbPortsOf_stitle (s : State) : (nbPortsOf s).stitle = portValue (nbStitleValue s) := rfl
@[simp] theorem nbPortsOf_ic (s : State) : (nbPortsOf s).ic = portValue (nbIcValue s) := rfl
@[simp] theorem nbPortsOf_nonce (s : State) : (nbPortsOf s).nonce = portValue (nbNonceValue s) := rfl
@[simp] theorem nbPortsOf_ct (s : State) : (nbPortsOf s).ct = portValue (nbCtValue s) := rfl

end Sys2Proof.Machine
end

