-- ==== Sys2Proof/Laws/Ops.lean ====
section
/-! SUPPORT. For each shared operation, once, everything it can answer. -/
namespace Sys2Proof.Machine

/-! ## Going on with a read value -/

@[simp] theorem withValue_ok {α : Type} (v : α) (k : α → Result) : withValue (.ok v) k = k v := rfl

@[simp] theorem withValue_error {α : Type} (f : Fault) (k : α → Result) :
    withValue (.error f : Except Fault α) k = .fault f := rfl

theorem withValue_next {α : Type} {r : Except Fault α} {k : α → Result} {t : State}
    (h : withValue r k = .next t) : ∃ v, r = .ok v ∧ k v = .next t := by
  cases r with
  | ok v => exact ⟨v, rfl, h⟩
  | error f => cases h

/-! ## Reads -/

theorem readByte_eq_ok {sp : Space} {i : Nat} {s : State} {b : Byte} :
    readByte sp i s = .ok b ↔ i < spaceSize sp ∧ (spaceOf sp s).read i = some b := by
  unfold readByte
  split
  · rename_i h
    cases hr : (spaceOf sp s).read i <;> simp [h]
  · rename_i h
    simp [h]

theorem readByte_congr {sp : Space} {s t : State} (i : Nat) (h : (spaceOf sp s).read i = (spaceOf sp t).read i) :
    readByte sp i s = readByte sp i t := by
  simp only [readByte, h]

/-- Two states that hold the same array read alike in that space. -/
theorem readByte_of_spaceOf_eq {sp : Space} {s t : State} (i : Nat) (h : spaceOf sp t = spaceOf sp s) :
    readByte sp i t = readByte sp i s :=
  readByte_congr i (by rw [h])

/-- Two states that hold the same arrays read alike everywhere. -/
theorem bytesUnchanged_of_eq {s t : State} (hb : t.fs.buf = s.fs.buf) (hl : t.last.bytes = s.last.bytes)
    (hp : t.rdIn.pl = s.rdIn.pl) : BytesUnchanged s t := fun sp i =>
  readByte_of_spaceOf_eq i (by cases sp <;> simpa)

/-- A space that lists no entry holds `NONE` everywhere. -/
theorem allNone_of_nil {sp : Space} {s : State} (h : spaceOf sp s = Memory.invalidated) : AllNone sp s := fun i hi => by
  simp [readByte, hi, h]

theorem readBytes_congr_of_spaceOf_eq {sp : Space} {s t : State} {o n : Nat} (h : spaceOf sp t = spaceOf sp s) :
    readBytes sp t o n = readBytes sp s o n := by
  induction n generalizing o with
  | zero => rfl
  | succ n ih => simp only [readBytes, readByte_of_spaceOf_eq o h, ih]

/-- NB's ports depend on the last frame alone. -/
theorem nbPortsOf_of_last_eq {s t : State} (h : t.last = s.last) : nbPortsOf t = nbPortsOf s := by
  have hr : ∀ o n, readBytes .frame t o n = readBytes .frame s o n := fun o n =>
    readBytes_congr_of_spaceOf_eq (by simp [h])
  simp [nbPortsOf, nbStitleValue, nbIcValue, nbNonceValue, nbCtValue, frameSlice, h, hr]

/-- A block read answers bytes exactly where every byte read answers one. -/
theorem readBytes_eq_ok {sp : Space} {s : State} {n i : Nat} {bs : List Byte} :
    readBytes sp s i n = .ok bs ↔ bs.length = n ∧ ∀ j, j < n → readByte sp (i + j) s = .ok (bs.getD j 0#8) := by
  induction n generalizing i bs with
  | zero =>
    simp only [readBytes, Except.ok.injEq]
    constructor
    · rintro rfl
      simp
    · rintro ⟨h, -⟩
      exact (List.length_eq_zero_iff.mp h).symm
  | succ n ih =>
    constructor
    · intro h
      simp only [readBytes] at h
      split at h
      · cases h
      · rename_i b hb
        split at h
        · cases h
        · rename_i bs' hbs
          cases h
          obtain ⟨hl, hr⟩ := ih.mp hbs
          refine ⟨by simp [hl], fun j hj => ?_⟩
          cases j with
          | zero => simpa using hb
          | succ j =>
            have := hr j (by omega)
            rw [show i + (j + 1) = i + 1 + j by omega, this]
            simp
    · rintro ⟨hl, hr⟩
      cases bs with
      | nil => simp at hl
      | cons b bs =>
        have hb := hr 0 (by omega)
        have hbs : readBytes sp s (i + 1) n = .ok bs := by
          refine ih.mpr ⟨by simpa using hl, fun j hj => ?_⟩
          have := hr (j + 1) (by omega)
          rw [show i + 1 + j = i + (j + 1) by omega, this]
          simp
        simp only [Nat.add_zero, List.getD_cons_zero] at hb
        simp only [readBytes, hb, hbs]

/-- A block read inside a space whose entries all hold a byte answers. -/
theorem readBytes_total {sp : Space} {s : State} {n i : Nat} (hin : i + n ≤ spaceSize sp)
    (h : ∀ j, j < n → ((spaceOf sp s).read (i + j)).isSome = true) : ∃ bs, readBytes sp s i n = .ok bs := by
  induction n generalizing i with
  | zero => exact ⟨[], rfl⟩
  | succ n ih =>
    obtain ⟨b, hb⟩ := Option.isSome_iff_exists.mp (h 0 (by omega))
    obtain ⟨bs, hbs⟩ := ih (i := i + 1) (by omega) fun j hj => by
      have := h (j + 1) (by omega)
      rwa [show i + 1 + j = i + (j + 1) by omega]
    have hb' : readByte sp i s = .ok b := readByte_eq_ok.mpr ⟨by omega, by simpa using hb⟩
    exact ⟨b :: bs, by simp only [readBytes, hb', hbs]⟩

theorem readBytes_congr {sp : Space} {s t : State} {n i : Nat}
    (h : ∀ j, j < n → readByte sp (i + j) s = readByte sp (i + j) t) : readBytes sp s i n = readBytes sp t i n := by
  induction n generalizing i with
  | zero => rfl
  | succ n ih =>
    have h0 := h 0 (by omega)
    simp only [Nat.add_zero] at h0
    have hs : readBytes sp s (i + 1) n = readBytes sp t (i + 1) n := ih fun j hj => by
      have := h (j + 1) (by omega)
      rwa [show i + 1 + j = i + (j + 1) by omega]
    simp only [readBytes, h0, hs]

/-! ## Selection of a BYTE step -/

/-- Everything the selection can answer. -/
theorem selectByteOp_cases (b : Byte) (s : State) :
    (s.fs.mode = none ∧ selectByteOp b s = .error (.readNone .fsMode)) ∨
    (s.fs.mode = some .hunt ∧ selectByteOp b s = .ok (if isMarker b then .huntEnd else .huntSkip)) ∨
    (s.fs.mode = some .collect ∧ s.fs.count = none ∧ selectByteOp b s = .error (.readNone .fsCount)) ∨
    (∃ c, s.fs.mode = some .collect ∧ s.fs.count = some c ∧ beforeLastByte c = true ∧
      selectByteOp b s = .ok .collectStore) ∨
    (∃ c b0, s.fs.mode = some .collect ∧ s.fs.count = some c ∧ beforeLastByte c = false ∧
      readByte .cand 0 s = .ok b0 ∧
      selectByteOp b s = .ok (if isMarker b0 && isMarker b then .collectAccept else .collectReject)) ∨
    (∃ c f, s.fs.mode = some .collect ∧ s.fs.count = some c ∧ beforeLastByte c = false ∧
      readByte .cand 0 s = .error f ∧ selectByteOp b s = .error f) := by
  cases hm : s.fs.mode with
  | none => simp [selectByteOp, hm]
  | some m =>
    cases m with
    | hunt => cases h : isMarker b <;> simp [selectByteOp, hm, h]
    | collect =>
      cases hc : s.fs.count with
      | none => simp [selectByteOp, hm, hc]
      | some c =>
        cases hb : beforeLastByte c with
        | true => simp [selectByteOp, hm, hc, hb]
        | false =>
          cases hr : readByte .cand 0 s with
          | error f => simp [selectByteOp, hm, hc, hb, hr]
          | ok b0 => cases h0 : isMarker b0 <;> cases h1 : isMarker b <;> simp [selectByteOp, hm, hc, hb, hr, h0, h1]

theorem whenSelected_eq {op : ByteOp} {b : Byte} {s : State} (k : Result) (h : selectByteOp b s = .ok op) :
    whenSelected op b s k = k := by
  simp [whenSelected, h]

theorem whenSelected_next {op : ByteOp} {b : Byte} {s : State} {k : Result} {t : State}
    (h : whenSelected op b s k = .next t) : selectByteOp b s = .ok op ∧ k = .next t := by
  obtain ⟨o, ho, hk⟩ := withValue_next h
  split at hk
  · rename_i heq
    subst heq
    exact ⟨ho, hk⟩
  · cases hk

/-- A BYTE step that goes on is the selected operation going on. -/
theorem execByte_next {b : Byte} {s t : State} (h : execByte b s = .next t) :
    execCollectStore b s = .next t ∨ execCollectAccept b s = .next t ∨ execCollectReject b s = .next t ∨
      execHuntSkip b s = .next t ∨ execHuntEnd b s = .next t := by
  obtain ⟨op, -, hop⟩ := withValue_next h
  cases op <;> simp_all

/-! ## discard -/

/-- Everything `discard` can answer. -/
theorem discardBytes_cases (k : Nat) (next : FsMode) (s : State) :
    (s.build.huntLimit = none ∧ discardBytes k next s = .ok (setMode next s)) ∨
    (∃ n, s.build.huntLimit = some n ∧ s.fs.disc = none ∧ discardBytes k next s = .error (.readNone .fsDisc)) ∨
    (∃ n d, s.build.huntLimit = some n ∧ s.fs.disc = some d ∧ n ≤ d + k ∧
      discardBytes k next s = .ok (raiseEvent .framingDesyncTimeout
        { s with fs := { s.fs with disc := some 0, mode := some .collect, count := some 0#7 } })) ∨
    (∃ n d, s.build.huntLimit = some n ∧ s.fs.disc = some d ∧ d + k < n ∧
      discardBytes k next s = .ok (setMode next (setDisc (d + k) s))) := by
  cases hl : s.build.huntLimit with
  | none => simp [discardBytes, hl]
  | some n =>
    cases hd : s.fs.disc with
    | none => simp [discardBytes, hl, hd]
    | some d =>
      by_cases h : n ≤ d + k
      · simp [discardBytes, hl, hd, limitReached, h]
      · simp [discardBytes, hl, hd, limitReached, h]
        omega

/-- What `discard` never touches. -/
theorem discardBytes_frame {k : Nat} {next : FsMode} {s t : State} (h : discardBytes k next s = .ok t) :
    t.build = s.build ∧ t.last = s.last ∧ t.nb = s.nb ∧ t.rdIn = s.rdIn ∧ t.rd = s.rd ∧ t.input = s.input ∧
      t.fs.buf = s.fs.buf ∧ t.pulses.frameDone = s.pulses.frameDone ∧ t.pulses.connErr = s.pulses.connErr := by
  rcases discardBytes_cases k next s with ⟨-, h1⟩ | ⟨n, -, -, h1⟩ | ⟨n, d, -, -, -, h1⟩ | ⟨n, d, -, -, -, h1⟩ <;>
    rw [h1] at h <;> cases h <;> simp

/-! ## The shape check and the field rules -/

/-- Everything RD_CHECK can answer, in the order AUTH, LEN, TAG. -/
theorem rdCheckOf_cases (s : State) :
    (s.rdIn.authFail = true ∧ rdCheckOf s = .ok .auth) ∨
    (s.rdIn.authFail = false ∧ s.rdIn.len ≠ 74#8 ∧ rdCheckOf s = .ok .len) ∨
    (∃ f, s.rdIn.authFail = false ∧ s.rdIn.len = 74#8 ∧ readByte .payload 0 s = .error f ∧ rdCheckOf s = .error f) ∨
    (∃ b, s.rdIn.authFail = false ∧ s.rdIn.len = 74#8 ∧ readByte .payload 0 s = .ok b ∧ b ≠ 0x0F#8 ∧
      rdCheckOf s = .ok .tag) ∨
    (s.rdIn.authFail = false ∧ s.rdIn.len = 74#8 ∧ readByte .payload 0 s = .ok 0x0F#8 ∧
      rdCheckOf s = .ok .noCause) := by
  cases ha : s.rdIn.authFail with
  | true => simp [rdCheckOf, shapeCheck, ha]
  | false =>
    by_cases hl : s.rdIn.len = 74#8
    · cases hr : readByte .payload 0 s with
      | error f => simp [rdCheckOf, shapeCheck, ha, hl, hr, Config.payloadLen]
      | ok b =>
        by_cases hb : b = 0x0F#8
        · simp [rdCheckOf, shapeCheck, ha, hl, hr, hb, Config.payloadLen, Config.payloadTag]
        · simp [rdCheckOf, shapeCheck, ha, hl, hr, hb, Config.payloadLen, Config.payloadTag]
    · have hn : s.rdIn.len.toNat ≠ 74 := fun h => hl (BitVec.eq_of_toNat_eq (by simpa using h))
      simp [rdCheckOf, shapeCheck, ha, hl, hn, Config.payloadLen]

theorem rdCheckOf_passes {s : State} (h : CheckPasses s) : rdCheckOf s = .ok .noCause := by
  obtain ⟨ha, hl, hr⟩ := h
  simp [rdCheckOf, shapeCheck, ha, hl, hr, Config.payloadLen, Config.payloadTag]

theorem rdCheckOf_eq_passes {s : State} (h : rdCheckOf s = .ok .noCause) : CheckPasses s := by
  rcases rdCheckOf_cases s with ⟨-, h1⟩ | ⟨-, -, h1⟩ | ⟨f, -, -, -, h1⟩ | ⟨b, -, -, -, -, h1⟩ | ⟨ha, hl, hr, -⟩
  · rw [h1] at h; cases h
  · rw [h1] at h; cases h
  · rw [h1] at h; cases h
  · rw [h1] at h; cases h
  · exact ⟨ha, hl, hr⟩

theorem rdCheckOf_fails {s : State} {c : RdCause} (h : CheckFails s c) : rdCheckOf s = .ok c := by
  cases c with
  | noCause => cases h
  | auth => simp [CheckFails] at h; simp [rdCheckOf, shapeCheck, h]
  | len =>
    obtain ⟨ha, hl⟩ := h
    have hn : s.rdIn.len.toNat ≠ 74 := fun h => hl (BitVec.eq_of_toNat_eq (by simpa using h))
    simp [rdCheckOf, shapeCheck, ha, hn, Config.payloadLen]
  | tag =>
    obtain ⟨ha, hl, b, hr, hb⟩ := h
    simp [rdCheckOf, shapeCheck, ha, hl, hr, hb, Config.payloadLen, Config.payloadTag]

/-- A field rule goes on only where the check passes and the field reads. -/
theorem readField_next {α : Type} {p : Port} {v : Except Fault α} {put : α → State} {s t : State}
    (h : readField p v put s = .next t) : CheckPasses s ∧ ∃ x, v = .ok x ∧ t = put x := by
  obtain ⟨c, hc, hk⟩ := withValue_next h
  cases c with
  | noCause =>
    obtain ⟨x, hx, hp⟩ := withValue_next hk
    exact ⟨rdCheckOf_eq_passes hc, x, hx, by cases hp; rfl⟩
  | len => cases hk
  | tag => cases hk
  | auth => cases hk

theorem readField_passes {α : Type} {p : Port} {v : Except Fault α} {put : α → State} {s : State} {x : α}
    (hc : CheckPasses s) (hv : v = .ok x) : readField p v put s = .next (put x) := by
  simp [readField, rdCheckOf_passes hc, hv]

theorem readField_fails {α : Type} {p : Port} {v : Except Fault α} {put : α → State} {s : State} {c : RdCause}
    (hc : CheckFails s c) : readField p v put s = .fault (.portHoldsNoValue p) := by
  cases c with
  | noCause => cases hc
  | auth => simp [readField, rdCheckOf_fails hc]
  | len => simp [readField, rdCheckOf_fails hc]
  | tag => simp [readField, rdCheckOf_fails hc]

/-! ## Big-endian assembly -/

@[simp] theorem be16_toNat (a0 a1 : Byte) : (be16 a0 a1).toNat = a0.toNat * 2 ^ 8 + a1.toNat := by
  have h0 := a0.isLt
  have h1 := a1.isLt
  rw [be16, BitVec.toNat_ofNat]
  omega

@[simp] theorem be32_toNat (a0 a1 a2 a3 : Byte) :
    (be32 a0 a1 a2 a3).toNat = a0.toNat * 2 ^ 24 + a1.toNat * 2 ^ 16 + a2.toNat * 2 ^ 8 + a3.toNat := by
  have h0 := a0.isLt
  have h1 := a1.isLt
  have h2 := a2.isLt
  have h3 := a3.isLt
  rw [be32, BitVec.toNat_ofNat]
  omega

theorem payloadBe16_ok {o : Nat} {s : State} {a0 a1 : Byte} (h0 : readByte .payload o s = .ok a0)
    (h1 : readByte .payload (o + 1) s = .ok a1) : payloadBe16 o s = .ok (be16 a0 a1) := by
  simp [payloadBe16, h0, h1]

theorem payloadBe32_ok {o : Nat} {s : State} {a0 a1 a2 a3 : Byte} (h0 : readByte .payload o s = .ok a0)
    (h1 : readByte .payload (o + 1) s = .ok a1) (h2 : readByte .payload (o + 2) s = .ok a2)
    (h3 : readByte .payload (o + 3) s = .ok a3) : payloadBe32 o s = .ok (be32 a0 a1 a2 a3) := by
  simp [payloadBe32, h0, h1, h2, h3]

/-! ## NB's slices -/

theorem frameSlice_valid {p : Port} {off len : Nat} {s : State} (h : s.last.valid = some true) :
    frameSlice p off len s = readBytes .frame s off len := by
  simp [frameSlice, h]

theorem frameSlice_invalid {p : Port} {off len : Nat} {s : State} (h : s.last.valid = some false) :
    frameSlice p off len s = .error (.portHoldsNoValue p) := by
  simp [frameSlice, h]

theorem frameSlice_ok {p : Port} {off len : Nat} {s : State} {bs : List Byte}
    (h : frameSlice p off len s = .ok bs) : s.last.valid = some true ∧ readBytes .frame s off len = .ok bs := by
  unfold frameSlice at h
  split at h
  · cases h
  · cases h
  · rename_i hv
    exact ⟨hv, h⟩

end Sys2Proof.Machine
end

