-- ==== Sys2Proof/Laws/PerInstr.lean ====
section
/-! SUPPORT. A property of every instruction as syntax: the word the encoder gives fits the row's mask and match in
spec/opcode_table.json, and a row without a pattern has no word. -/
namespace Sys2Proof.Laws.EncodingFitsTable

/-- A well-formed row's encoding fits the table's pattern for that row. -/
def Statement (i : Instr) : Prop :=
  i.wellFormed = true →
    (encode i = none ∧ tablePattern i = none) ∨
      ∃ w mask pat, encode i = some w ∧ tablePattern i = some (mask, pat) ∧ w &&& mask = pat

theorem byteWord_low (b : Byte) : byteWord b &&& 0x700#11 = 0x100#11 := by
  unfold byteWord
  apply BitVec.eq_of_getLsbD_eq
  intro j hj
  have hj' : j < 11 := hj
  simp only [BitVec.getLsbD_and, BitVec.getLsbD_or, BitVec.getLsbD_setWidth]
  by_cases h : j < 8
  · interval_cases j <;> simp
  · have hb : b.getLsbD j = false := BitVec.getLsbD_of_ge b j (by omega)
    rw [hb]
    interval_cases j <;> simp

theorem reset : Statement .reset := fun _ => .inr ⟨_, _, _, rfl, rfl, by decide⟩
theorem fail : Statement .fail := fun _ => .inr ⟨_, _, _, rfl, rfl, by decide⟩
theorem byte (b : Byte) : Statement (.byte b) := fun _ => .inr ⟨_, _, _, rfl, rfl, byteWord_low b⟩
theorem idle : Statement .idle := fun _ => .inr ⟨_, _, _, rfl, rfl, by decide⟩
theorem collectStore (b : Byte) : Statement (.collectStore b) := fun _ => .inr ⟨_, _, _, rfl, rfl, byteWord_low b⟩
theorem collectAccept (b : Byte) : Statement (.collectAccept b) := fun h => by
  have hb : b = Config.marker := by simpa [Instr.wellFormed] using h
  subst hb
  exact .inr ⟨_, _, _, rfl, rfl, by decide⟩
theorem collectReject (b : Byte) : Statement (.collectReject b) := fun _ => .inr ⟨_, _, _, rfl, rfl, byteWord_low b⟩
theorem huntSkip (b : Byte) : Statement (.huntSkip b) := fun _ => .inr ⟨_, _, _, rfl, rfl, byteWord_low b⟩
theorem huntEnd (b : Byte) : Statement (.huntEnd b) := fun h => by
  have hb : b = Config.marker := by simpa [Instr.wellFormed] using h
  subst hb
  exact .inr ⟨_, _, _, rfl, rfl, by decide⟩
theorem nbStitle : Statement .nbStitle := fun _ => .inl ⟨rfl, rfl⟩
theorem nbIc : Statement .nbIc := fun _ => .inl ⟨rfl, rfl⟩
theorem nbNonce : Statement .nbNonce := fun _ => .inl ⟨rfl, rfl⟩
theorem nbCtext : Statement .nbCtext := fun _ => .inl ⟨rfl, rfl⟩
theorem rdCheck : Statement .rdCheck := fun _ => .inl ⟨rfl, rfl⟩
theorem rdDecode : Statement .rdDecode := fun _ => .inl ⟨rfl, rfl⟩
theorem rdYear : Statement .rdYear := fun _ => .inl ⟨rfl, rfl⟩
theorem rdMonth : Statement .rdMonth := fun _ => .inl ⟨rfl, rfl⟩
theorem rdDay : Statement .rdDay := fun _ => .inl ⟨rfl, rfl⟩
theorem rdHour : Statement .rdHour := fun _ => .inl ⟨rfl, rfl⟩
theorem rdMinute : Statement .rdMinute := fun _ => .inl ⟨rfl, rfl⟩
theorem rdSecond : Statement .rdSecond := fun _ => .inl ⟨rfl, rfl⟩
theorem rdAei : Statement .rdAei := fun _ => .inl ⟨rfl, rfl⟩
theorem rdAeo : Statement .rdAeo := fun _ => .inl ⟨rfl, rfl⟩
theorem rdRei : Statement .rdRei := fun _ => .inl ⟨rfl, rfl⟩
theorem rdReo : Statement .rdReo := fun _ => .inl ⟨rfl, rfl⟩
theorem rdApi : Statement .rdApi := fun _ => .inl ⟨rfl, rfl⟩
theorem rdApo : Statement .rdApo := fun _ => .inl ⟨rfl, rfl⟩
theorem rdRpi : Statement .rdRpi := fun _ => .inl ⟨rfl, rfl⟩
theorem rdRpo : Statement .rdRpo := fun _ => .inl ⟨rfl, rfl⟩

end Sys2Proof.Laws.EncodingFitsTable
end

