-- ==== Sys2Proof/Laws/Step.lean ====
section
/-! SUPPORT. What one stream word, and one evaluation of a combinational operation, can do: the inversion lemmas every
invariant is derived from. -/
namespace Sys2Proof.Machine

theorem decode_cases (w : StreamWord) :
    decode w = .reset ∨ decode w = .fail ∨ decode w = .idle ∨ ∃ b, decode w = .byte b := by
  unfold decode
  split
  · simp
  · split
    · simp
    · split <;> simp

theorem isMarker_eq_true {b : Byte} : isMarker b = true ↔ b = Config.marker := by simp [isMarker]

theorem isMarker_eq_false {b : Byte} : isMarker b = false ↔ b ≠ Config.marker := by simp [isMarker]

theorem beforeLastByte_eq_true {c : BitVec 7} : beforeLastByte c = true ↔ c.toNat < 104 := by
  unfold beforeLastByte
  exact decide_eq_true_iff

theorem beforeLastByte_eq_false {c : BitVec 7} : beforeLastByte c = false ↔ 104 ≤ c.toNat := by
  unfold beforeLastByte
  exact decide_eq_false_iff_not.trans Nat.not_lt

theorem execCollectStore_next {b : Byte} {s t : State} (h : execCollectStore b s = .next t) :
    ∃ c, s.fs.mode = some .collect ∧ s.fs.count = some c ∧ c.toNat < 104 ∧
      t = settleNb (storeCandidate c b (beginStep s)) := by
  obtain ⟨hs, hk⟩ := whenSelected_next h
  rcases selectByteOp_cases b s with ⟨-, h1⟩ | ⟨-, h1⟩ | ⟨-, -, h1⟩ | ⟨c, hm, hc, hb, -⟩ | ⟨c, b0, -, -, -, -, h1⟩ |
    ⟨c, f, -, -, -, -, h1⟩
  · rw [h1] at hs; cases hs
  · rw [h1] at hs; split at hs <;> cases hs
  · rw [h1] at hs; cases hs
  · rw [hc] at hk
    cases hk
    exact ⟨c, hm, hc, beforeLastByte_eq_true.mp hb, rfl⟩
  · rw [h1] at hs; split at hs <;> cases hs
  · rw [h1] at hs; cases hs

theorem execCollectAccept_next {b : Byte} {s t : State} (h : execCollectAccept b s = .next t) :
    ∃ c bytes, s.fs.mode = some .collect ∧ s.fs.count = some c ∧ 104 ≤ c.toNat ∧
      readByte .cand 0 s = .ok Config.marker ∧ b = Config.marker ∧ readBytes .cand s 0 104 = .ok bytes ∧
      t = settleNb (setDisc 0 (dropCandidate (emitFrameDone (setLastFrame (bytes ++ [b]) (beginStep s))))) := by
  obtain ⟨hs, hk⟩ := whenSelected_next h
  obtain ⟨bytes, hbytes, hk⟩ := withValue_next hk
  cases hk
  rcases selectByteOp_cases b s with ⟨-, h1⟩ | ⟨-, h1⟩ | ⟨-, -, h1⟩ | ⟨c, -, -, -, h1⟩ | ⟨c, b0, hm, hc, hb, hr, h1⟩ |
    ⟨c, f, -, -, -, -, h1⟩
  · rw [h1] at hs; cases hs
  · rw [h1] at hs; split at hs <;> cases hs
  · rw [h1] at hs; cases hs
  · rw [h1] at hs; cases hs
  · rw [h1] at hs
    split at hs
    · rename_i hmk
      rw [Bool.and_eq_true] at hmk
      rw [isMarker_eq_true.mp hmk.1] at hr
      exact ⟨c, bytes, hm, hc, beforeLastByte_eq_false.mp hb, hr, isMarker_eq_true.mp hmk.2, hbytes, rfl⟩
    · cases hs
  · rw [h1] at hs; cases hs

theorem execCollectReject_next {b : Byte} {s t : State} (h : execCollectReject b s = .next t) :
    ∃ c b0 u, s.fs.mode = some .collect ∧ s.fs.count = some c ∧ 104 ≤ c.toNat ∧ readByte .cand 0 s = .ok b0 ∧
      ¬(b0 = Config.marker ∧ b = Config.marker) ∧
      discardBytes 105 .hunt (raiseEvent .framingDesync (dropCandidate (beginStep s))) = .ok u ∧ t = settleNb u := by
  obtain ⟨hs, hk⟩ := whenSelected_next h
  obtain ⟨u, hu, hk⟩ := withValue_next hk
  cases hk
  rcases selectByteOp_cases b s with ⟨-, h1⟩ | ⟨-, h1⟩ | ⟨-, -, h1⟩ | ⟨c, -, -, -, h1⟩ | ⟨c, b0, hm, hc, hb, hr, h1⟩ |
    ⟨c, f, -, -, -, -, h1⟩
  · rw [h1] at hs; cases hs
  · rw [h1] at hs; split at hs <;> cases hs
  · rw [h1] at hs; cases hs
  · rw [h1] at hs; cases hs
  · rw [h1] at hs
    split at hs
    · cases hs
    · rename_i hmk
      rw [Bool.and_eq_true, isMarker_eq_true, isMarker_eq_true] at hmk
      exact ⟨c, b0, u, hm, hc, beforeLastByte_eq_false.mp hb, hr, hmk, hu, rfl⟩
  · rw [h1] at hs; cases hs

theorem execHuntSkip_next {b : Byte} {s t : State} (h : execHuntSkip b s = .next t) :
    ∃ u, s.fs.mode = some .hunt ∧ b ≠ Config.marker ∧ discardBytes 1 .hunt (beginStep s) = .ok u ∧ t = settleNb u := by
  obtain ⟨hs, hk⟩ := whenSelected_next h
  obtain ⟨u, hu, hk⟩ := withValue_next hk
  cases hk
  rcases selectByteOp_cases b s with ⟨-, h1⟩ | ⟨hm, h1⟩ | ⟨-, -, h1⟩ | ⟨c, -, -, -, h1⟩ | ⟨c, b0, -, -, -, -, h1⟩ |
    ⟨c, f, -, -, -, -, h1⟩
  · rw [h1] at hs; cases hs
  · rw [h1] at hs
    split at hs
    · cases hs
    · rename_i hmk
      exact ⟨u, hm, fun hb => hmk (isMarker_eq_true.mpr hb), hu, rfl⟩
  · rw [h1] at hs; cases hs
  · rw [h1] at hs; cases hs
  · rw [h1] at hs; split at hs <;> cases hs
  · rw [h1] at hs; cases hs

theorem execHuntEnd_next {b : Byte} {s t : State} (h : execHuntEnd b s = .next t) :
    ∃ u, s.fs.mode = some .hunt ∧ b = Config.marker ∧ discardBytes 1 .collect (beginStep s) = .ok u ∧
      t = settleNb u := by
  obtain ⟨hs, hk⟩ := whenSelected_next h
  obtain ⟨u, hu, hk⟩ := withValue_next hk
  cases hk
  rcases selectByteOp_cases b s with ⟨-, h1⟩ | ⟨hm, h1⟩ | ⟨-, -, h1⟩ | ⟨c, -, -, -, h1⟩ | ⟨c, b0, -, -, -, -, h1⟩ |
    ⟨c, f, -, -, -, -, h1⟩
  · rw [h1] at hs; cases hs
  · rw [h1] at hs
    split at hs
    · rename_i hmk
      exact ⟨u, hm, isMarker_eq_true.mp hmk, hu, rfl⟩
    · cases hs
  · rw [h1] at hs; cases hs
  · rw [h1] at hs; cases hs
  · rw [h1] at hs; split at hs <;> cases hs
  · rw [h1] at hs; cases hs

/-- Everything a stream word can do where it goes on: one of eight transitions (40_frame_sync.md R118). -/
theorem takeWord_next_cases {w : StreamWord} {s t : State} (h : takeWord w s = .next t) :
    (decode w = .reset ∧
      t = settleNb (clearLastFrame (setDisc 0 (dropCandidate (setMode .collect (beginStep s)))))) ∨
    (decode w = .fail ∧
      t = settleNb (setDisc 0 (dropCandidate (setMode .collect (raiseEvent .connectionError (beginStep s)))))) ∨
    (decode w = .idle ∧ t = settleNb (beginStep s)) ∨
    (∃ b c, decode w = .byte b ∧ s.fs.mode = some .collect ∧ s.fs.count = some c ∧ c.toNat < 104 ∧
      t = settleNb (storeCandidate c b (beginStep s))) ∨
    (∃ c bytes, decode w = .byte Config.marker ∧ s.fs.mode = some .collect ∧ s.fs.count = some c ∧ 104 ≤ c.toNat ∧
      readByte .cand 0 s = .ok Config.marker ∧ readBytes .cand s 0 104 = .ok bytes ∧
      t = settleNb (setDisc 0 (dropCandidate (emitFrameDone
        (setLastFrame (bytes ++ [Config.marker]) (beginStep s)))))) ∨
    (∃ b c b0 u, decode w = .byte b ∧ s.fs.mode = some .collect ∧ s.fs.count = some c ∧ 104 ≤ c.toNat ∧
      readByte .cand 0 s = .ok b0 ∧ ¬(b0 = Config.marker ∧ b = Config.marker) ∧
      discardBytes 105 .hunt (raiseEvent .framingDesync (dropCandidate (beginStep s))) = .ok u ∧ t = settleNb u) ∨
    (∃ b u, decode w = .byte b ∧ s.fs.mode = some .hunt ∧ b ≠ Config.marker ∧
      discardBytes 1 .hunt (beginStep s) = .ok u ∧ t = settleNb u) ∨
    (∃ u, decode w = .byte Config.marker ∧ s.fs.mode = some .hunt ∧
      discardBytes 1 .collect (beginStep s) = .ok u ∧ t = settleNb u) := by
  unfold takeWord at h
  rcases decode_cases w with h1 | h1 | h1 | ⟨b, h1⟩ <;> rw [h1] at h
  · cases h
    exact .inl ⟨h1, rfl⟩
  · cases h
    exact .inr (.inl ⟨h1, rfl⟩)
  · cases h
    exact .inr (.inr (.inl ⟨h1, rfl⟩))
  · rcases execByte_next h with h2 | h2 | h2 | h2 | h2
    · obtain ⟨c, hm, hc, hlt, ht⟩ := execCollectStore_next h2
      exact .inr (.inr (.inr (.inl ⟨b, c, h1, hm, hc, hlt, ht⟩)))
    · obtain ⟨c, bytes, hm, hc, hge, hr, rfl, hbytes, ht⟩ := execCollectAccept_next h2
      exact .inr (.inr (.inr (.inr (.inl ⟨c, bytes, h1, hm, hc, hge, hr, hbytes, ht⟩))))
    · obtain ⟨c, b0, u, hm, hc, hge, hr, hn, hu, ht⟩ := execCollectReject_next h2
      exact .inr (.inr (.inr (.inr (.inr (.inl ⟨b, c, b0, u, h1, hm, hc, hge, hr, hn, hu, ht⟩)))))
    · obtain ⟨u, hm, hn, hu, ht⟩ := execHuntSkip_next h2
      exact .inr (.inr (.inr (.inr (.inr (.inr (.inl ⟨b, u, h1, hm, hn, hu, ht⟩))))))
    · obtain ⟨u, hm, rfl, hu, ht⟩ := execHuntEnd_next h2
      exact .inr (.inr (.inr (.inr (.inr (.inr (.inr ⟨u, h1, hm, hu, ht⟩))))))

/-- RD_DECODE, where it goes on, drives RD's output ports with their functions and changes nothing else. -/
theorem execRdDecode_next {s t : State} (h : execRdDecode s = .next t) :
    ∃ rd, rdPortsOf s = some rd ∧ t = { s with rd := rd } := by
  obtain ⟨d, hd, hk⟩ := withValue_next h
  cases d with
  | ok r => cases hk; exact ⟨_, by simp [rdPortsOf, hd], rfl⟩
  | error c => cases hk; exact ⟨_, by simp [rdPortsOf, hd], rfl⟩

/-- RD_CHECK, where it goes on, drives RD's output ports only. -/
theorem execRdCheck_next {s t : State} (h : execRdCheck s = .next t) :
    (CheckPasses s ∧ t = driveCheckOk s) ∨ ∃ c, rdCheckOf s = .ok c ∧ c ≠ .noCause ∧ t = { s with rd := .failed c } := by
  obtain ⟨c, hc, hk⟩ := withValue_next h
  cases c with
  | noCause => cases hk; exact .inl ⟨rdCheckOf_eq_passes hc, rfl⟩
  | len => cases hk; exact .inr ⟨.len, hc, by simp, rfl⟩
  | tag => cases hk; exact .inr ⟨.tag, hc, by simp, rfl⟩
  | auth => cases hk; exact .inr ⟨.auth, hc, by simp, rfl⟩

/-- Evaluating a combinational operation drives output ports of NB or RD and changes nothing else. -/
theorem comb_next_frame {i : Instr} {s t : State} (hf : i.format = .comb) (h : exec i s = .next t) :
    (∃ nb, t = { s with nb := nb }) ∨ ∃ rd, t = { s with rd := rd } := by
  cases i
  case nbStitle => obtain ⟨v, -, hk⟩ := withValue_next h; cases hk; exact .inl ⟨_, rfl⟩
  case nbIc => obtain ⟨v, -, hk⟩ := withValue_next h; cases hk; exact .inl ⟨_, rfl⟩
  case nbNonce => obtain ⟨v, -, hk⟩ := withValue_next h; cases hk; exact .inl ⟨_, rfl⟩
  case nbCtext => obtain ⟨v, -, hk⟩ := withValue_next h; cases hk; exact .inl ⟨_, rfl⟩
  case rdCheck =>
    rcases execRdCheck_next h with ⟨-, rfl⟩ | ⟨c, -, -, rfl⟩
    · exact .inr ⟨_, rfl⟩
    · exact .inr ⟨_, rfl⟩
  case rdDecode => obtain ⟨rd, -, rfl⟩ := execRdDecode_next h; exact .inr ⟨_, rfl⟩
  all_goals first
    | cases hf; done
    | obtain ⟨-, x, -, rfl⟩ := readField_next h; exact .inr ⟨_, rfl⟩

/-- A reading read from the payload answers each field's own read. -/
theorem readReading_fields {s : State} {r : Reading} (h : readReading s = .ok r) :
    payloadBe16 22 s = .ok r.year ∧ payloadU8 24 s = .ok r.month ∧ payloadU8 25 s = .ok r.day ∧
    payloadU8 27 s = .ok r.hour ∧ payloadU8 28 s = .ok r.minute ∧ payloadU8 29 s = .ok r.second ∧
    payloadBe32 35 s = .ok r.activeEnergyIn ∧ payloadBe32 40 s = .ok r.activeEnergyOut ∧
    payloadBe32 45 s = .ok r.reactiveEnergyIn ∧ payloadBe32 50 s = .ok r.reactiveEnergyOut ∧
    payloadBe32 55 s = .ok r.activePowerIn ∧ payloadBe32 60 s = .ok r.activePowerOut ∧
    payloadBe32 65 s = .ok r.reactivePowerIn ∧ payloadBe32 70 s = .ok r.reactivePowerOut := by
  unfold readReading at h
  split at h
  · rename_i y mo d hh mi sec e0 e1 e2 e3 p0 p1 p2 p3 ht he hp
    cases h
    unfold readTimestamp at ht
    unfold readQuantities at he hp
    split at ht <;> cases ht
    split at he <;> cases he
    split at hp <;> cases hp
    simp_all
  all_goals cases h

/-- What one step is, by the action it carries out. -/
theorem step_next_cases {s t : State} (h : step s = .next t) :
    (s.input = [] ∧ t = s) ∨
    (∃ w rest, s.input = .word w :: rest ∧ takeWord w { s with input := rest } = .next t) ∨
    (∃ plain ok rest, s.input = .engine plain ok :: rest ∧ presentResult plain ok { s with input := rest } = .next t) ∨
    (∃ i rest, s.input = .evaluate i :: rest ∧ i.format = .comb ∧ exec i { s with input := rest } = .next t) := by
  unfold step fetch at h
  cases hi : s.input with
  | nil => rw [hi] at h; cases h; exact .inl ⟨rfl, rfl⟩
  | cons a rest =>
    rw [hi] at h
    cases a with
    | word w => exact .inr (.inl ⟨w, rest, rfl, h⟩)
    | engine plain ok => exact .inr (.inr (.inl ⟨plain, ok, rest, rfl, h⟩))
    | evaluate i =>
      simp only [runInput, evaluateOp] at h
      cases hf : i.format with
      | comb => rw [hf] at h; exact .inr (.inr (.inr ⟨i, rest, rfl, hf, h⟩))
      | stream => rw [hf] at h; cases h

end Sys2Proof.Machine
end

