-- ==== Sys2Proof/Tests/Slice0.lean ====
section
/-! SUPPORT. The author's own tests: the WellFormed smoke, words written out from 30_encoding.md, single steps with
values of 95_test_vectors.md, and a state that meets the hypotheses of each statement. -/
namespace Sys2Proof.Tests
open Sys2Proof Sys2Proof.Machine

/-! ## Helpers -/

/-- F_A of 95_test_vectors.md: 7E, then 01 to 67, then 7E. -/
def frameA : List Byte := [0x7E#8] ++ (List.range 103).map (fun i => BitVec.ofNat 8 (i + 1)) ++ [0x7E#8]

/-- The payload P_X of 95_test_vectors.md. -/
def payloadX : List Byte :=
  [0x0F#8] ++ List.replicate 21 0#8 ++
  [0xFF#8, 0xFF#8, 0x0D#8, 0x00#8, 0x05#8, 0x17#8, 0x3B#8, 0x3C#8] ++ List.replicate 5 0#8 ++
  [0x00#8, 0x01#8, 0xE2#8, 0x40#8, 0#8, 0x00#8, 0x00#8, 0x00#8, 0x01#8, 0#8] ++
  [0xFF#8, 0xFF#8, 0xFF#8, 0xFF#8, 0#8, 0x12#8, 0x34#8, 0x56#8, 0x78#8, 0#8] ++
  [0x00#8, 0x00#8, 0x03#8, 0xE8#8, 0#8, 0x80#8, 0x00#8, 0x00#8, 0x00#8, 0#8] ++
  [0x00#8, 0x00#8, 0x00#8, 0x00#8, 0#8, 0xDE#8, 0xAD#8, 0xBE#8, 0xEF#8]

/-- The bytes of a list from an index on. -/
def cellsFrom : Nat → List Byte → Memory
  | _, [] => []
  | k, b :: bs => (k, b) :: cellsFrom (k + 1) bs

/-- The bytes of a list from index 0. -/
def cells (bs : List Byte) : Memory := cellsFrom 0 bs

/-- The reset state with these registers of FS. -/
def fsState (limit : Option Nat) (mode : FsMode) (count : BitVec 7) (buf : List Byte) (disc : Nat) : State :=
  { State.reset with
    build := { huntLimit := limit, authChecked := true }
    fs := { mode := some mode, count := some count, buf := cells buf, disc := some disc } }

/-- Collecting the first `n` bytes of F_A. -/
def collecting (n : Nat) : State := fsState none .collect (BitVec.ofNat 7 n) (frameA.take n) 0

/-- One byte before the end of a candidate of zero bytes, with this limit. -/
def rejecting (limit : Option Nat) : State := fsState limit .collect 104#7 (List.replicate 104 0#8) 0

/-- Hunting, with this limit and `d` bytes discarded. -/
def hunting (limit : Option Nat) (d : Nat) : State := fsState limit .hunt 0#7 [] d

/-- F_A delivered, with byte `i` of the frame replaced by `b`. -/
def delivered (i : Nat) (b : Byte) : State :=
  settleNb { State.reset with last := { bytes := cells (frameA.set i b), valid := some true } }

/-- RD's inputs driven with this length, payload and failure flag. -/
def driven (len : BitVec 8) (pl : List Byte) (fail : Bool) : State :=
  { State.reset with rdIn := { len := len, pl := cells pl, authFail := fail } }

/-- P_X accepted by the engine, with byte `i` replaced. -/
def drivenX (i : Nat) (b : Byte) : State := driven 74#8 (payloadX.set i b) false

/-- The next state, if any. -/
def nextOf (r : Result) : Option State :=
  match r with
  | .next t => some t
  | .fault _ => none
  | .refused _ => none

/-- The fault, if any. -/
def faultOf (r : Result) : Option Fault :=
  match r with
  | .next _ => none
  | .fault f => some f
  | .refused _ => none

theorem next_of_any {r : Result} {p : State → Bool} (h : (nextOf r).any p = true) : ∃ t, r = .next t ∧ p t = true := by
  cases r with
  | next t => exact ⟨t, rfl, h⟩
  | fault f => cases h
  | refused f => cases h

/-! ## WellFormed: each check refuses an ill-formed term -/

theorem test_wf_accept_needs_marker : (Instr.collectAccept 0x00#8).wellFormed = false := by decide
theorem test_wf_hunt_end_needs_marker : (Instr.huntEnd 0x55#8).wellFormed = false := by decide
theorem test_wf_hunt_skip_refuses_marker : (Instr.huntSkip 0x7E#8).wellFormed = false := by decide

/-! ## Words written out from 30_encoding.md R72 and the tables of 40_frame_sync.md -/

theorem test_decode_reset : decode 0b10000000000#11 = .reset := by decide
theorem test_decode_reset_other_bits : decode 0b11111111111#11 = .reset := by decide
theorem test_decode_fail : decode 0b01000000000#11 = .fail := by decide
theorem test_decode_fail_other_bits : decode 0b01111111111#11 = .fail := by decide
theorem test_decode_byte_67 : decode 0b00101100111#11 = .byte 0x67#8 := by decide
theorem test_decode_idle : decode 0b00000000000#11 = .idle := by decide
theorem test_decode_idle_other_bits : decode 0b00011111111#11 = .idle := by decide
/-- COLLECT_STORE, COLLECT_REJECT and HUNT_SKIP have BYTE's encoding `001dddddddd` (R104, R106, R107). -/
theorem test_decode_collect_store_word : decode 0b00100000001#11 = (Instr.collectStore 0x01#8).wordForm := by decide
theorem test_decode_collect_reject_word : decode 0b00100000000#11 = (Instr.collectReject 0x00#8).wordForm := by decide
theorem test_decode_hunt_skip_word : decode 0b00111111110#11 = (Instr.huntSkip 0xFE#8).wordForm := by decide
/-- COLLECT_ACCEPT and HUNT_END are the word 0x17E (R105, R108). -/
theorem test_decode_collect_accept_word : decode 0b00101111110#11 = (Instr.collectAccept 0x7E#8).wordForm := by decide
theorem test_decode_hunt_end_word : decode 0b00101111110#11 = (Instr.huntEnd 0x7E#8).wordForm := by decide
/-- NB and RD operations have no word (R71). -/
theorem test_nb_has_no_word : encode .nbStitle = none ∧ encode .nbIc = none ∧ encode .nbNonce = none ∧
    encode .nbCtext = none ∧ decodeTableWord 0 0 = none := by decide
theorem test_rd_has_no_word : encode .rdCheck = none ∧ encode .rdDecode = none ∧ encode .rdYear = none ∧
    encode .rdRpo = none := by decide
theorem test_decode_rejects_wide_number : decodeTableWord 16 0x8400 = none := by decide
theorem test_decode_table_word : decodeTableWord 16 0x17E = some (.byte 0x7E#8) := by decide

/-! ## Assembler (30_encoding.md R77) -/

theorem test_seq_expands : expandLine (.seq 0x01#8 0x03#8) = some [0x101#11, 0x102#11, 0x103#11] := by decide
theorem test_rep_expands : expandLine (.rep 2 .idle) = some [0x000#11, 0x000#11] := by decide

/-- 60_exceptions.md R216 and 70_reset_and_hazards.md R232 (4). -/
theorem test_session_words : sessionWords [.byte 0x7E#8, .noByte, .failure] = [0x400#11, 0x17E#11, 0x000#11, 0x200#11] := by
  decide
/-- RD-11: 123456 is 123.456 kWh, that is 15432 / 125. -/
theorem test_scaled_energy : (scaledEnergy 123456#32).num = 15432 ∧ (scaledEnergy 123456#32).den = 125 := by decide +kernel

/-! ## Single steps -/

/-- FS-1's first byte, as the first word after reset. -/
theorem test_first_byte_is_stored :
    (nextOf (step (State.reset.withFetchWord 16 0x17E))).map (fun t => (t.fs.count, t.fs.buf, t.input)) =
      some (some 1#7, [(0, 0x7E#8)], []) := by decide
/-- FS-14 (a). -/
theorem test_byte_before_reset_faults :
    faultOf (exec (.byte 0x01#8) (State.powerOn State.reset.build)) = some (.readNone .fsMode) := by decide
/-- FS-14 (b). -/
theorem test_fail_before_reset : (nextOf (exec .fail (State.powerOn State.reset.build))).map
    (fun t => (t.pulses.connErr, t.fs.count, t.last.valid)) = some (true, some 0#7, none) := by decide
/-- FS-15 (c): five bytes, then 0x0FF. -/
theorem test_idle_keeps_candidate : (nextOf (takeWord 0x0FF#11 (collecting 5))).map (fun t => t.fs) =
    some (collecting 5).fs := by decide
/-- FS-1: byte 105 delivers F_A. -/
theorem test_accept_delivers_frame : (nextOf (exec (.byte 0x7E#8) (collecting 104))).map
    (fun t => (t.pulses.frameDone, t.fs.count, t.last.bytes)) = some (true, some 0#7, cells frameA) := by
  decide +kernel
/-- FS-2: the last byte is not the marker. -/
theorem test_reject_starts_hunt : (nextOf (exec (.byte 0x00#8) (collecting 104))).map
    (fun t => (t.fs.mode, t.fs.count, t.fs.buf, t.pulses)) = some (some .hunt, some 0#7, [], noPulses) := by
  decide +kernel
/-- FS-12: `HUNT_LIMIT` = 105 times out with the rejection. -/
theorem test_reject_times_out : (nextOf (exec (.byte 0x00#8) (rejecting (some 105)))).map
    (fun t => (t.fs.mode, t.fs.disc, t.pulses.desyncErr)) = some (some .collect, some 0, true) := by decide +kernel
/-- FS-17 (a): the marker ends the hunt and is not stored. -/
theorem test_hunt_end_stores_nothing : (nextOf (exec (.byte 0x7E#8) (hunting none 0))).map
    (fun t => (t.fs.mode, t.fs.count, t.fs.buf)) = some (some .collect, some 0#7, []) := by decide
/-- FS-11: the timeout beats the marker. -/
theorem test_timeout_beats_marker : (nextOf (exec (.byte 0x7E#8) (hunting (some 106) 105))).map
    (fun t => (t.fs.mode, t.fs.disc, t.pulses.desyncErr)) = some (some .collect, some 0, true) := by decide
/-- FS-18: the 221st byte is counted and the hunt goes on. -/
theorem test_hunt_skip_counts : (nextOf (exec (.byte 0x01#8) (hunting (some 250) 220))).map
    (fun t => (t.fs.mode, t.fs.disc, t.pulses)) = some (some .hunt, some 221, noPulses) := by decide
/-- NB-1. -/
theorem test_nb_stitle : (delivered 0 0x7E#8).nb.stitle =
    some [0x0E#8, 0x0F#8, 0x10#8, 0x11#8, 0x12#8, 0x13#8, 0x14#8, 0x15#8] := by decide +kernel
theorem test_nb_ic : (delivered 0 0x7E#8).nb.ic = some [0x18#8, 0x19#8, 0x1A#8, 0x1B#8] := by decide +kernel
theorem test_nb_nonce : (delivered 0 0x7E#8).nb.nonce = some [0x0E#8, 0x0F#8, 0x10#8, 0x11#8, 0x12#8, 0x13#8, 0x14#8,
    0x15#8, 0x18#8, 0x19#8, 0x1A#8, 0x1B#8] := by decide +kernel
theorem test_nb_ct : (delivered 0 0x7E#8).nb.ct =
    some ((List.range 74).map fun i => BitVec.ofNat 8 (0x1C + i)) := by decide +kernel
/-- NB-4. -/
theorem test_nb_read_without_frame_faults :
    faultOf (exec .nbNonce State.reset) = some (.portHoldsNoValue .nbNonce) := by decide
/-- RD-2: the timestamp. -/
theorem test_rd_decode_timestamp : (nextOf (presentResult payloadX true State.reset)).map
    (fun t => (t.rd.ok, t.rd.year, t.rd.month, t.rd.day, t.rd.hour, t.rd.minute, t.rd.second)) =
      some (true, some 65535#16, some 13#8, some 0#8, some 23#8, some 59#8, some 60#8) := by decide +kernel
/-- RD-2: the quantities. -/
theorem test_rd_decode_quantities : (nextOf (presentResult payloadX true State.reset)).map
    (fun t => [t.rd.aei, t.rd.aeo, t.rd.rei, t.rd.reo, t.rd.api, t.rd.apo, t.rd.rpi, t.rd.rpo]) =
      some [some 123456#32, some 1#32, some 4294967295#32, some 305419896#32, some 1000#32, some 2147483648#32,
        some 0#32, some 3735928559#32] := by decide +kernel
/-- RD-5: a result of more than 255 bytes saturates and fails with LEN. -/
theorem test_rd_length_saturates : (nextOf (presentResult (payloadX ++ List.replicate 400 1#8) true State.reset)).map
    (fun t => (t.rdIn.len, t.rd.err, t.rd.cause)) = some (255#8, true, .len) := by decide +kernel
/-- RD-7: AUTH beats every other cause. -/
theorem test_rd_auth_first : (nextOf (exec .rdCheck (driven 73#8 [0x0E#8] true))).map (fun t => t.rd.cause) =
    some .auth := by decide
/-- RD-8: LEN beats TAG. -/
theorem test_rd_len_before_tag : (nextOf (exec .rdCheck (driven 73#8 [0x0E#8] false))).map (fun t => t.rd.cause) =
    some .len := by decide
/-- RD-6 and RD-10. -/
theorem test_rd_tag_blanks_fields : faultOf (exec .rdYear (drivenX 0 0x0E#8)) = some (.portHoldsNoValue .rdYear) := by
  decide +kernel
/-- RD-2, one field at a time. -/
theorem test_rd_field_aei : (nextOf (exec .rdAei (drivenX 0 0x0F#8))).map (fun t => t.rd.aei) = some (some 123456#32) := by
  decide +kernel
theorem test_rd_field_rpo : (nextOf (exec .rdRpo (drivenX 0 0x0F#8))).map (fun t => t.rd.rpo) =
    some (some 3735928559#32) := by decide +kernel

/-! ## Witnesses: a state that meets the hypotheses of each statement -/

/-- CanonicalWordRoundTrip. -/
theorem witness_canonical_word : (Instr.collectAccept 0x7E#8).format = .stream ∧
    (Instr.collectAccept 0x7E#8).wellFormed = true ∧ Instr.nbIc.format = .comb := by decide
/-- DecodeFollowsControlBits, NonCanonicalWordsActCanonically, ResetGivesResetColumn, FailDropsCandidateKeepsFrame: one
word for each clause. -/
theorem witness_control_bits :
    (0x7FF#11 : StreamWord).getLsbD 10 = true ∧
    ((0x3FF#11 : StreamWord).getLsbD 10 = false ∧ (0x3FF#11 : StreamWord).getLsbD 9 = true) ∧
    ((0x1FF#11 : StreamWord).getLsbD 10 = false ∧ (0x1FF#11 : StreamWord).getLsbD 9 = false ∧
      (0x1FF#11 : StreamWord).getLsbD 8 = true) ∧
    ((0x0FF#11 : StreamWord).getLsbD 10 = false ∧ (0x0FF#11 : StreamWord).getLsbD 9 = false ∧
      (0x0FF#11 : StreamWord).getLsbD 8 = false) := by decide
/-- PseudoInstructionsExpandInOrder. -/
theorem witness_pseudo : frameA.length = 105 ∧ (0x00#8 : Byte).toNat ≤ (0xFF#8 : Byte).toNat ∧
    (0x05#8 : Byte).toNat ≤ (0x05#8 : Byte).toNat ∧ (0 ≤ 104 ∧ 104 < frameA.length) ∧
    expandLine (.byte 0x01#8) = some [0x101#11] := by decide
/-- StepRunsDecodedWord. -/
theorem witness_step_word : (State.reset.withFetchWord 16 0x400).input = .word 0x400#11 :: [] := by decide
/-- StepCarriesOutHostActions. -/
theorem witness_step_host : State.reset.input = [] ∧
    (∃ s : State, s.input = .engine payloadX true :: []) ∧
    (∃ s : State, s.input = .evaluate .rdCheck :: [] ∧ Instr.rdCheck.format = .comb) ∧
    (∃ s : State, s.input = .evaluate .idle :: [] ∧ Instr.idle.format = .stream) :=
  ⟨rfl, ⟨{ State.reset with input := [.engine payloadX true] }, rfl⟩,
    ⟨{ State.reset with input := [.evaluate .rdCheck] }, rfl, rfl⟩,
    ⟨{ State.reset with input := [.evaluate .idle] }, rfl, rfl⟩⟩
/-- NbAgree, a premise of the frames of FAIL, IDLE and the BYTE rows, with a frame delivered. -/
theorem witness_nb_agree : NbAgree (delivered 0 0x7E#8) := by
  have h : (delivered 0 0x7E#8).nb = nbPortsOf (delivered 0 0x7E#8) := by decide +kernel
  exact h
/-- ByteRunsSelectedOperation and CollectStoreAppendsByte: the first and the last count of the store clause. -/
theorem witness_collect_store :
    ((collecting 0).fs.mode = some .collect ∧ (collecting 0).fs.count = some 0#7 ∧ (0#7 : BitVec 7).toNat < 104) ∧
    ((collecting 103).fs.mode = some .collect ∧ (collecting 103).fs.count = some 103#7 ∧
      (103#7 : BitVec 7).toNat < 104) := by decide
/-- ByteRunsSelectedOperation (count 104) and CollectAcceptPublishesFrame. -/
theorem witness_collect_accept : (collecting 104).fs.mode = some .collect ∧ (collecting 104).fs.count = some 104#7 ∧
    (∀ i, i < 104 → ((collecting 104).fs.buf.read i).isSome = true) := by decide +kernel
theorem witness_collect_accept_first : readByte .cand 0 (collecting 104) = .ok Config.marker :=
  readByte_eq_ok.mpr ⟨by decide, by decide +kernel⟩
/-- CollectRejectDiscardsCandidate: no limit. -/
theorem witness_collect_reject : (rejecting none).build.huntLimit = none ∧
    (rejecting none).fs.mode = some .collect ∧ (rejecting none).fs.count = some 104#7 ∧
    readByte .cand 0 (rejecting none) = .ok 0x00#8 ∧
    ¬((0x00#8 : Byte) = Config.marker ∧ (0x7E#8 : Byte) = Config.marker) := ⟨rfl, rfl, rfl, rfl, by decide⟩
/-- CollectRejectDiscardsCandidate: the largest limit that times out with the rejection. -/
theorem witness_collect_reject_timeout : (rejecting (some 105)).build.huntLimit = some 105 ∧
    (rejecting (some 105)).fs.disc = some 0 ∧ (rejecting (some 105)).fs.mode = some .collect ∧
    (rejecting (some 105)).fs.count = some 104#7 ∧ readByte .cand 0 (rejecting (some 105)) = .ok 0x00#8 ∧
    ¬((0x00#8 : Byte) = Config.marker ∧ (0x7E#8 : Byte) = Config.marker) ∧ 105 ≤ 0 + 105 :=
  ⟨rfl, rfl, rfl, rfl, rfl, by decide, by decide⟩
/-- CollectRejectDiscardsCandidate: the smallest limit that does not. -/
theorem witness_collect_reject_hunt : (rejecting (some 106)).build.huntLimit = some 106 ∧
    (rejecting (some 106)).fs.disc = some 0 ∧ (rejecting (some 106)).fs.mode = some .collect ∧
    (rejecting (some 106)).fs.count = some 104#7 ∧ readByte .cand 0 (rejecting (some 106)) = .ok 0x00#8 ∧
    ¬((0x00#8 : Byte) = Config.marker ∧ (0x7E#8 : Byte) = Config.marker) ∧ ¬106 ≤ 0 + 105 :=
  ⟨rfl, rfl, rfl, rfl, rfl, by decide, by decide⟩
/-- HuntSkipDiscardsByte and HuntEndStartsCandidate: no limit, a limit reached by this byte and one missed by one. -/
theorem witness_hunt : (hunting none 0).fs.mode = some .hunt ∧ (0x01#8 : Byte) ≠ Config.marker ∧
    (hunting none 0).build.huntLimit = none ∧
    ((hunting (some 106) 105).build.huntLimit = some 106 ∧ (hunting (some 106) 105).fs.disc = some 105 ∧
      106 ≤ 105 + 1) ∧
    ((hunting (some 107) 105).build.huntLimit = some 107 ∧ (hunting (some 107) 105).fs.disc = some 105 ∧
      ¬107 ≤ 105 + 1) := by decide
/-- UnselectedRowsAreRefused: every row is selected somewhere. -/
theorem witness_selected :
    selectByteOp 0x01#8 (collecting 0) = .ok .collectStore ∧
    selectByteOp 0x7E#8 (collecting 104) = .ok .collectAccept ∧
    selectByteOp 0x00#8 (collecting 104) = .ok .collectReject ∧
    selectByteOp 0x01#8 (hunting none 0) = .ok .huntSkip ∧
    selectByteOp 0x7E#8 (hunting none 0) = .ok .huntEnd := ⟨rfl, rfl, rfl, rfl, rfl⟩
/-- FsInv with a frame delivered, while collecting: EveryWordCompletes, StepKeepsFsInvariant. -/
theorem witness_fs_inv_collecting : FsInv { delivered 0 0x7E#8 with
    fs := (collecting 5).fs, input := [.word 0x17E#11] } :=
  { modeHeld := by decide, countHeld := by decide, validHeld := by decide, countAtMost := by decide
    huntCount := by decide, candidate := by decide +kernel, invalidFrame := by decide +kernel
    wholeFrame := by decide +kernel, markers := by decide +kernel, disc := by decide }
theorem witness_fs_inv_step : ∃ t, step { delivered 0 0x7E#8 with
    fs := (collecting 5).fs, input := [.word 0x17E#11] } = .next t := ⟨_, rfl⟩
/-- EveryRunFromResetIsLegal: the smallest limit. -/
theorem witness_smallest_limit : (hunting (some 1) 0).build.huntLimit ≠ some 0 := by decide
/-- FsInv in HUNT with a limit. -/
theorem witness_fs_inv_hunting : FsInv (hunting (some 107) 105) :=
  { modeHeld := by decide, countHeld := by decide, validHeld := by decide, countAtMost := by decide
    huntCount := by decide, candidate := by decide +kernel, invalidFrame := by decide +kernel
    wholeFrame := by decide +kernel, markers := by decide +kernel, disc := by decide }
/-- NbSlicesAreFrameBytes, NonceIsTitleThenCounter, NbPortsNeedFrame, ReadingPathDecodesEngineResult. -/
theorem witness_frame_whole : FrameWhole (delivered 0 0x7E#8) := ⟨rfl, by decide +kernel⟩
/-- NonceIsTitleThenCounter: two frames that differ outside the nonce's bytes. -/
theorem witness_same_nonce_bytes : FrameWhole (delivered 0 0x7E#8) ∧ FrameWhole (delivered 28 0xFF#8) ∧
    (∀ i, 14 ≤ i ∧ i ≤ 21 ∨ 24 ≤ i ∧ i ≤ 27 →
      readByte .frame i (delivered 0 0x7E#8) = readByte .frame i (delivered 28 0xFF#8)) ∧
    (delivered 0 0x7E#8).last ≠ (delivered 28 0xFF#8).last := by
  have h : ∀ i, i < 105 → i ≠ 28 →
      (delivered 0 0x7E#8).last.bytes.read i = (delivered 28 0xFF#8).last.bytes.read i := by decide +kernel
  refine ⟨witness_frame_whole, ⟨rfl, by decide +kernel⟩, fun i hi => ?_, by decide +kernel⟩
  simp only [readByte, spaceOf, h i (by omega) (by omega)]
/-- NbIgnoresUnreadFrameBytes: NB-5's kind of pair. -/
theorem witness_unread_frame_bytes : (delivered 0 0x7E#8).last.valid = (delivered 22 0xFF#8).last.valid ∧
    (∀ i, 14 ≤ i ∧ i ≤ 21 ∨ 24 ≤ i ∧ i ≤ 101 →
      readByte .frame i (delivered 0 0x7E#8) = readByte .frame i (delivered 22 0xFF#8)) ∧
    (delivered 0 0x7E#8).last ≠ (delivered 22 0xFF#8).last := by
  have h : ∀ i, i < 105 → i ≠ 22 →
      (delivered 0 0x7E#8).last.bytes.read i = (delivered 22 0xFF#8).last.bytes.read i := by decide +kernel
  refine ⟨rfl, fun i hi => ?_, by decide +kernel⟩
  simp only [readByte, spaceOf, h i (by omega) (by omega)]
/-- NbPortsNeedFrame. -/
theorem witness_no_frame : State.reset.last.valid = some false := rfl
/-- The statements about every word that has a next state (NbPortsFollowLastFrame, AtMostOnePulsePerStep,
PulsesComeFromTheirWords, LastFrameChangesOnlyOnAcceptOrReset): an accepted frame, which also changes `last_frame`. -/
theorem witness_take_word_accept : ∃ t, takeWord 0x17E#11 (collecting 104) = .next t ∧ t.pulses.frameDone = true ∧
    t.last.valid = some true ∧ (collecting 104).last.valid = some false := by
  have h : (nextOf (takeWord 0x17E#11 (collecting 104))).any
      (fun t => decide (t.pulses.frameDone = true ∧ t.last.valid = some true ∧
        (collecting 104).last.valid = some false)) = true := by decide +kernel
  obtain ⟨t, ht, hp⟩ := next_of_any h
  exact ⟨t, ht, of_decide_eq_true hp⟩
theorem witness_take_word_fail : ∃ t, takeWord 0x200#11 State.reset = .next t ∧ t.pulses.connErr = true :=
  ⟨_, rfl, rfl⟩
theorem witness_take_word_timeout : ∃ t, takeWord 0x101#11 (hunting (some 106) 105) = .next t ∧
    t.pulses.desyncErr = true := ⟨_, rfl, rfl⟩
/-- CheckPasses: RdCheckValidatesShape and the field rules. -/
theorem witness_check_passes : CheckPasses (drivenX 0 0x0F#8) := ⟨rfl, rfl, rfl⟩
/-- CheckFails, each cause: RdCheckValidatesShape, RdDecodeGivesReading, RdFieldReadFaultsWhenCheckFails. -/
theorem witness_check_fails : CheckFails (driven 74#8 payloadX true) .auth ∧
    CheckFails (driven 73#8 payloadX false) .len ∧ CheckFails (driven 75#8 payloadX false) .len ∧
    CheckFails (drivenX 0 0x0E#8) .tag :=
  ⟨rfl, ⟨rfl, by decide⟩, ⟨rfl, by decide⟩, ⟨rfl, rfl, 0x0E#8, rfl, by decide⟩⟩
/-- RdCheckValidatesShape: the first byte is there when the length is 74. -/
theorem witness_first_byte : ∃ b, readByte .payload 0 (drivenX 0 0x0F#8) = .ok b := ⟨_, rfl⟩
/-- RdDecodeGivesReading, and the fields of RdTimestampFields, RdEnergyFields and RdPowerFields: every byte reads. -/
theorem witness_payload_reads : ∀ i, i < 74 →
    readByte .payload i (drivenX 0 0x0F#8) = .ok (payloadX.getD i 0#8) := by
  intro i hi
  have h : ∀ i, i < 74 → (drivenX 0 0x0F#8).rdIn.pl.read i = some (payloadX.getD i 0#8) := by decide +kernel
  exact readByte_eq_ok.mpr ⟨hi, h i hi⟩
/-- RdIgnoresUnreadPayloadBytes: RD-9's kind of pair. -/
theorem witness_unread_payload_bytes :
    (drivenX 0 0x0F#8).rdIn.len = (drivenX 26 0xFF#8).rdIn.len ∧
    (drivenX 0 0x0F#8).rdIn.authFail = (drivenX 26 0xFF#8).rdIn.authFail ∧
    (∀ i, ¬(1 ≤ i ∧ i ≤ 21 ∨ i = 26 ∨ 30 ≤ i ∧ i ≤ 34 ∨ i = 39 ∨ i = 44 ∨ i = 49 ∨ i = 54 ∨ i = 59 ∨ i = 64 ∨ i = 69) →
      readByte .payload i (drivenX 0 0x0F#8) = readByte .payload i (drivenX 26 0xFF#8)) ∧
    drivenX 0 0x0F#8 ≠ drivenX 26 0xFF#8 := by
  have h : ∀ i, i < 74 → i ≠ 26 →
      (drivenX 0 0x0F#8).rdIn.pl.read i = (drivenX 26 0xFF#8).rdIn.pl.read i := by decide +kernel
  refine ⟨rfl, rfl, fun i hi => ?_, by decide +kernel⟩
  by_cases hl : i < 74
  · simp only [readByte, spaceOf, h i hl (by omega)]
  · simp only [readByte, spaceSize, Config.payloadLen, hl, if_false]
/-- RdIgnoresUnreadPayloadBytes, second clause: payloads that differ everywhere, with AUTH and with LEN failing. -/
theorem witness_failing_payloads :
    ((driven 74#8 payloadX true).rdIn.len = (driven 74#8 [] true).rdIn.len ∧
      (driven 74#8 payloadX true).rdIn.authFail = (driven 74#8 [] true).rdIn.authFail ∧
      (driven 74#8 payloadX true).rdIn.authFail = true) ∧
    ((driven 73#8 payloadX false).rdIn.len = (driven 73#8 [] false).rdIn.len ∧
      (driven 73#8 payloadX false).rdIn.authFail = (driven 73#8 [] false).rdIn.authFail ∧
      (driven 73#8 payloadX false).rdIn.len ≠ 74#8) := by decide
/-- EngineResultDrivesRd: an index below and one at the length, in a short result; the last entry of a long one. -/
theorem witness_engine_indices : (72 < 74 ∧ 72 < (payloadX.take 73).length) ∧
    (73 < 74 ∧ (payloadX.take 73).length ≤ 73) ∧ (73 < 74 ∧ 73 < (payloadX ++ [0#8]).length) := by decide
/-- ReadingPathDecodesEngineResult: a whole frame; with an engine that returns 73 bytes, an index below and one at the
length; with one that returns 75, the last entry; with one that returns nothing, the first. -/
theorem witness_reading_path : FrameWhole (delivered 0 0x7E#8) ∧
    (∃ dec : Decrypt, ∀ key nonce ct, 72 < (dec key nonce ct).1.length ∧ (dec key nonce ct).1.length ≤ 73) ∧
    (∃ dec : Decrypt, ∀ key nonce ct, 73 < (dec key nonce ct).1.length) ∧
    (∃ dec : Decrypt, ∀ key nonce ct, (dec key nonce ct).1.length ≤ 0) :=
  ⟨witness_frame_whole, ⟨fun _ _ _ => (payloadX.take 73, true), fun _ _ _ =>
      (by decide : 72 < (payloadX.take 73).length ∧ (payloadX.take 73).length ≤ 73)⟩,
    ⟨fun _ _ _ => (payloadX ++ [0#8], true), fun _ _ _ => (by decide : 73 < (payloadX ++ [0#8]).length)⟩,
    ⟨fun _ _ _ => ([], false), fun _ _ _ => Nat.le_refl 0⟩⟩
/-- The invariants about memory, ports and RD's inputs, on a state about to take an engine result. -/
theorem witness_ports_inv : memoriesWf { State.reset with input := [.engine payloadX true] } = true ∧
    NbAgree { State.reset with input := [.engine payloadX true] } ∧
    RdAgree { State.reset with input := [.engine payloadX true] } ∧
    ∃ t, step { State.reset with input := [.engine payloadX true] } = .next t :=
  ⟨by decide, rfl, rfl, _, rfl⟩
theorem witness_rd_inputs_legal : RdInputsLegal
    { driven 74#8 payloadX false with build := { huntLimit := none, authChecked := false } } :=
  { payload := by decide +kernel, tied := by decide }
theorem witness_rd_inputs_step : ∃ t, step
    { driven 74#8 payloadX false with build := { huntLimit := none, authChecked := false } } = .next t := ⟨_, rfl⟩
/-- HostActionsLeaveFsAlone. -/
theorem witness_host_actions : (∃ t, presentResult payloadX false State.reset = .next t) ∧
    ∃ t, evaluateOp .nbNonce (delivered 0 0x7E#8) = .next t := ⟨⟨_, rfl⟩, _, rfl⟩
/-- EvaluatingPortsIsIdempotent. -/
theorem witness_idempotent : Instr.nbNonce.format = .comb ∧ NbAgree (delivered 0 0x7E#8) ∧
    RdAgree (delivered 0 0x7E#8) ∧ ∃ t, exec .nbNonce (delivered 0 0x7E#8) = .next t := ⟨rfl, rfl, rfl, _, rfl⟩
/-- AtCandidateStart: NextFrameTakes105Words, AlignedFrameIsAcceptedWhole, OneResyncCost. -/
theorem witness_candidate_start : AtCandidateStart State.reset ∧ State.reset.build.huntLimit = none := by
  refine ⟨⟨rfl, rfl, rfl⟩, rfl⟩
/-- NextFrameTakes105Words at its bound: 104 words. -/
theorem witness_words_104 : ∃ t, takeWords (List.replicate 104 0x17E#11) State.reset = some t := by
  have h : (takeWords (List.replicate 104 0x17E#11) State.reset).isSome = true := by decide +kernel
  exact Option.isSome_iff_exists.mp h
/-- HuntHasNoBound. -/
theorem witness_hunt_no_bound : (hunting none 0).build.huntLimit = none ∧ (hunting none 0).fs.mode = some .hunt ∧
    (∀ b, b ∈ List.replicate 3 (0x00#8 : Byte) → b ≠ Config.marker) := by decide
/-- ShortLimitNeverHunts at its bound: a rejection with `HUNT_LIMIT` = 105. -/
theorem witness_short_limit : (rejecting (some 105)).build.huntLimit = some 105 ∧
    (rejecting (some 105)).fs.mode ≠ some .hunt ∧ ∃ t, takeWord 0x100#11 (rejecting (some 105)) = .next t :=
  ⟨rfl, by decide, _, rfl⟩
/-- AlignedFrameIsAcceptedWhole and OneResyncCost: F_A is a clean frame; offsets 1 and 104 are in range. -/
theorem witness_clean_frame : CleanFrame frameA := by
  refine ⟨by decide, by decide, by decide, ?_⟩
  intro i h1 h2
  have h : ∀ i, i < 104 → 1 ≤ i → frameA[i]? ≠ some Config.marker := by decide +kernel
  exact h i (by omega) h1
/-- FsMatchesReferenceReader: a mixed sequence of IDLE and BYTE words. -/
theorem witness_mixed_words : State.reset.build.huntLimit = none ∧
    ∀ w, w ∈ [0x000#11, 0x17E#11, 0x0FF#11] → decode w = .idle ∨ ∃ b, decode w = .byte b := by
  refine ⟨rfl, fun w hw => ?_⟩
  rcases List.mem_cons.mp hw with rfl | hw
  · exact .inl rfl
  rcases List.mem_cons.mp hw with rfl | hw
  · exact .inr ⟨_, rfl⟩
  rcases List.mem_cons.mp hw with rfl | hw
  · exact .inl rfl
  · exact absurd hw (by simp)
/-- OneResyncCost: both ends of the range of k, and of j within it. -/
theorem witness_resync_range : (1 ≤ 1 ∧ 1 ≤ 104 ∧ 1 ≤ 1) ∧ (1 ≤ 104 ∧ 104 ≤ 104 ∧ 104 ≤ 104) := by decide
/-- BuildRefusesUnsupportedParameters: both clauses, at the limits 1 and 0. -/
theorem witness_build : (some 1 : Option Nat) ≠ some 0 ∧
    (Config.params (some 0) true).huntLimit = some 0 ∧
    ({ Config.params none true with frameLen := 104 } : Config.Params).frameLen ≠ 105 := by decide

end Sys2Proof.Tests
end

section
/-! PROOFS, 00_scope.md: what a step does with a pending action (R12), and which builds are refused (R5, R13). -/
namespace Sys2Proof.Machine

/-! ## A step carries out the next pending action -/

theorem fetch_of_input_cons {s : State} {i : Input} {rest : List Input} (h : s.input = i :: rest) :
    fetch s = some (i, { s with input := rest }) := by
  unfold fetch
  rw [h]

theorem step_of_input_cons {s : State} {i : Input} {rest : List Input} (h : s.input = i :: rest) :
    step s = runInput i { s with input := rest } := by
  unfold step
  rw [fetch_of_input_cons h]

theorem runInput_word (w : StreamWord) (s : State) : runInput (.word w) s = exec (decode w) s := rfl

/-- Settles O6: the pending word is fetched, and carrying it out is `exec` of its decoding. -/
theorem stepRunsDecodedWord : Obligations.StepRunsDecodedWord := by
  intro s w rest h
  rw [step_of_input_cons h, runInput_word]

/-! ## The builds that are supported, and those that are refused -/

/-- The supported builds are those of `Config.params`: every parameter R5 fixes at its value, and a limit that is not 0. -/
theorem unsupported_eq_none_iff (p : Config.Params) :
    unsupported p = none ↔ p = Config.params p.huntLimit p.authChecked ∧ p.huntLimit ≠ some 0 := by
  constructor
  · intro h
    simp only [unsupported, ite_eq_iff, reduceCtorEq, and_false, false_or, not_or, not_not, and_true] at h
    obtain ⟨hmarker, hframeLen, ⟨hstOff, hstLen⟩, ⟨hicOff, hicLen⟩, hnonceLen, hctOff, htrailLen, hpayloadLen,
      hpayloadTag, hlimit⟩ := h
    refine ⟨?_, hlimit⟩
    rw [Config.params, ← hmarker, ← hframeLen, ← hstOff, ← hstLen, ← hicOff, ← hicLen, ← hnonceLen, ← hctOff,
      ← htrailLen, ← hpayloadLen, ← hpayloadTag]
  · rintro ⟨hp, hlimit⟩
    rw [hp]
    simp [unsupported, Config.params, hlimit]

theorem buildBlock_of_supported {p : Config.Params} (h : unsupported p = none) :
    buildBlock p = .next (State.powerOn { huntLimit := p.huntLimit, authChecked := p.authChecked }) := by
  unfold buildBlock
  rw [h]

theorem buildBlock_refused_of_unsupported {p : Config.Params} (h : unsupported p ≠ none) :
    ∃ x, buildBlock p = .refused (.unsupportedParameter x) := by
  obtain ⟨x, hx⟩ := Option.ne_none_iff_exists'.mp h
  refine ⟨x, ?_⟩
  unfold buildBlock
  rw [hx]

/-- Settles O54: a build of `Config.params` is supported where its limit is not 0; a supported build has every fixed
parameter at its value, so one that differs anywhere is refused. -/
theorem buildRefusesUnsupportedParameters : Obligations.BuildRefusesUnsupportedParameters := by
  constructor
  · intro limit auth hlimit
    exact buildBlock_of_supported ((unsupported_eq_none_iff (Config.params limit auth)).mpr ⟨rfl, hlimit⟩)
  · intro p hp
    refine buildBlock_refused_of_unsupported fun hnone => ?_
    obtain ⟨heq, hlimit⟩ := (unsupported_eq_none_iff p).mp hnone
    rw [heq] at hp
    simp [Config.params, Config.marker, Config.frameLen, Config.stOff, Config.stLen, Config.icOff, Config.icLen,
      Config.nonceLen, Config.ctOff, Config.trailLen, Config.payloadLen, Config.payloadTag, hlimit] at hp

end Sys2Proof.Machine
end

section
/-! PROOFS, 10_state.md: the invariants of FS (R31) and of RD's inputs (R30), what no step writes (R35), and which words
emit a pulse or change the last frame (R26 to R28). -/
namespace Sys2Proof.Machine

/-! ## What an action leaves alone -/

theorem fsFrame_of_discardBytes {k : Nat} {next : FsMode} {s u t : State} (h : discardBytes k next u = .ok t)
    (hs : FsFrame s u) : FsFrame s (settleNb t) := by
  obtain ⟨hbuild, -, -, hrdIn, hrd, hinput, -⟩ := discardBytes_frame h
  obtain ⟨hbuild', hrdIn', hrd', hinput'⟩ := hs
  exact ⟨hbuild.trans hbuild', hrdIn.trans hrdIn', hrd.trans hrd', hinput.trans hinput'⟩

/-- No word writes a build parameter, drives a port of RD or adds to the pending input. -/
theorem takeWord_fsFrame {w : StreamWord} {s t : State} (h : takeWord w s = .next t) : FsFrame s t := by
  rcases takeWord_next_cases h with ⟨-, rfl⟩ | ⟨-, rfl⟩ | ⟨-, rfl⟩ | ⟨b, c, -, -, -, -, rfl⟩ |
    ⟨c, bytes, -, -, -, -, -, -, rfl⟩ | ⟨b, c, b0, u, -, -, -, -, -, -, hu, rfl⟩ | ⟨b, u, -, -, -, hu, rfl⟩ |
    ⟨u, -, -, hu, rfl⟩
  · exact ⟨rfl, rfl, rfl, rfl⟩
  · exact ⟨rfl, rfl, rfl, rfl⟩
  · exact ⟨rfl, rfl, rfl, rfl⟩
  · exact ⟨rfl, rfl, rfl, rfl⟩
  · exact ⟨rfl, rfl, rfl, rfl⟩
  · exact fsFrame_of_discardBytes hu ⟨rfl, rfl, rfl, rfl⟩
  · exact fsFrame_of_discardBytes hu ⟨rfl, rfl, rfl, rfl⟩
  · exact fsFrame_of_discardBytes hu ⟨rfl, rfl, rfl, rfl⟩

/-- An engine result drives RD's ports and changes nothing else. -/
theorem presentResult_next {plain : List Byte} {authOk : Bool} {s t : State}
    (h : presentResult plain authOk s = .next t) : ∃ rd, t = { driveRd plain authOk s with rd := rd } := by
  obtain ⟨rd, -, ht⟩ := execRdDecode_next h
  exact ⟨rd, ht⟩

/-- What the engine and the host do changes neither a build parameter nor a register of FS nor the last frame, and only
an engine result changes RD's inputs. -/
theorem step_next_word_or_host {s t : State} (h : step s = .next t) :
    (∃ w rest, takeWord w { s with input := rest } = .next t) ∨
    (t.build = s.build ∧ t.fs = s.fs ∧ t.last = s.last ∧
      (t.rdIn = s.rdIn ∨ ∃ plain authOk, t.rdIn = (driveRd plain authOk s).rdIn)) := by
  rcases step_next_cases h with ⟨-, rfl⟩ | ⟨w, rest, -, hw⟩ | ⟨plain, ok, rest, -, he⟩ | ⟨i, rest, -, hf, hi⟩
  · exact .inr ⟨rfl, rfl, rfl, .inl rfl⟩
  · exact .inl ⟨w, rest, hw⟩
  · obtain ⟨rd, rfl⟩ := presentResult_next he
    exact .inr ⟨rfl, rfl, rfl, .inr ⟨plain, ok, rfl⟩⟩
  · rcases comb_next_frame hf hi with ⟨nb, rfl⟩ | ⟨rd, rfl⟩ <;> exact .inr ⟨rfl, rfl, rfl, .inl rfl⟩

theorem step_next_build {s t : State} (h : step s = .next t) : t.build = s.build := by
  rcases step_next_word_or_host h with ⟨w, rest, hw⟩ | ⟨hb, -⟩
  · obtain ⟨hb, -⟩ := takeWord_fsFrame hw
    exact hb
  · exact hb

/-- Settles O42: a word keeps the build (`takeWord_fsFrame`), and so does every host action. -/
theorem stepNeverWritesBuildParameters : Obligations.StepNeverWritesBuildParameters :=
  fun _ _ => step_next_build

/-! ## The invariants of R31, in two halves -/

/-- The half of 10_state.md R31 about the candidate being collected: FS's own registers. -/
structure CandidateInv (s : State) : Prop where
  modeHeld : s.fs.mode.isSome = true
  countHeld : s.fs.count.isSome = true
  countAtMost : countNat s ≤ 104
  huntCount : s.fs.mode = some .hunt → countNat s = 0
  candidate : ∀ i, i < 105 → ((s.fs.buf.read i).isSome = true ↔ s.fs.mode = some .collect ∧ i < countNat s)
  disc : discLegal s = true

/-- The half of 10_state.md R31 about the last accepted frame. -/
structure FrameInv (f : FrameReg) : Prop where
  validHeld : f.valid.isSome = true
  invalidFrame : f.valid = some false ↔ ∀ i, i < 105 → f.bytes.read i = none
  wholeFrame : f.valid = some true → ∀ i, i < 105 → (f.bytes.read i).isSome = true
  markers : f.valid = some true → f.bytes.read 0 = some Config.marker ∧ f.bytes.read 104 = some Config.marker

theorem fsInv_iff {s : State} : FsInv s ↔ CandidateInv s ∧ FrameInv s.last := by
  constructor
  · intro h
    exact ⟨⟨h.modeHeld, h.countHeld, h.countAtMost, h.huntCount, h.candidate, h.disc⟩,
      ⟨h.validHeld, h.invalidFrame, h.wholeFrame, h.markers⟩⟩
  · rintro ⟨hc, hf⟩
    exact ⟨hc.modeHeld, hc.countHeld, hf.validHeld, hc.countAtMost, hc.huntCount, hc.candidate, hf.invalidFrame,
      hf.wholeFrame, hf.markers, hc.disc⟩

theorem countNat_of_count {s : State} {c : BitVec 7} (h : s.fs.count = some c) : countNat s = c.toNat := by
  simp [countNat, h]

theorem countNat_congr {s t : State} (h : t.fs = s.fs) : countNat t = countNat s := by
  simp only [countNat, h]

theorem discLegal_congr {s t : State} (hb : t.build = s.build) (hd : t.fs.disc = s.fs.disc) :
    discLegal t = discLegal s := by
  simp only [discLegal, hb, hd]

/-- The candidate's half speaks of FS's registers and of the build alone. -/
theorem candidateInv_of_eq {s t : State} (h : CandidateInv s) (hb : t.build = s.build) (hf : t.fs = s.fs) :
    CandidateInv t where
  modeHeld := hf ▸ h.modeHeld
  countHeld := hf ▸ h.countHeld
  countAtMost := countNat_congr hf ▸ h.countAtMost
  huntCount := by rw [hf, countNat_congr hf]; exact h.huntCount
  candidate := by rw [hf, countNat_congr hf]; exact h.candidate
  disc := by rw [discLegal_congr hb (by rw [hf])]; exact h.disc

theorem fsInv_of_eq {s t : State} (h : FsInv s) (hb : t.build = s.build) (hf : t.fs = s.fs) (hl : t.last = s.last) :
    FsInv t := by
  obtain ⟨hcand, hframe⟩ := fsInv_iff.mp h
  exact fsInv_iff.mpr ⟨candidateInv_of_eq hcand hb hf, hl ▸ hframe⟩

/-! ## `fs_disc` (R31 (v)) -/

/-- R31 (v), for both forms of `HUNT_LIMIT`. -/
theorem discLegal_iff {s : State} :
    discLegal s = true ↔
      ∃ d, s.fs.disc = some d ∧ (s.build.huntLimit = none → d = 0) ∧ ∀ n, s.build.huntLimit = some n → d < n := by
  cases hl : s.build.huntLimit <;> cases hd : s.fs.disc <;> simp [discLegal, hl, hd]

theorem discLegal_of_disc_zero {s : State} (hd : s.fs.disc = some 0) (hl : s.build.huntLimit ≠ some 0) :
    discLegal s = true := by
  refine discLegal_iff.mpr ⟨0, hd, fun _ => rfl, fun n hn => Nat.pos_of_ne_zero ?_⟩
  rintro rfl
  exact hl hn

/-- A limit of 0, which R109 excludes, admits no `fs_disc` at all. -/
theorem huntLimit_ne_zero_of_discLegal {s : State} (h : discLegal s = true) : s.build.huntLimit ≠ some 0 := by
  obtain ⟨d, -, -, hlt⟩ := discLegal_iff.mp h
  exact fun hl => absurd (hlt 0 hl) (Nat.not_lt_zero d)

/-! ## The empty candidate -/

/-- No byte of a candidate is held: the state in which every transition but IDLE and COLLECT_STORE leaves FS. -/
def EmptyCandidate (s : State) : Prop :=
  s.fs.count = some 0#7 ∧ ∀ i, i < 105 → s.fs.buf.read i = none

theorem emptyCandidate_of_eq {s t : State} (h : EmptyCandidate s) (hc : t.fs.count = s.fs.count)
    (hb : t.fs.buf = s.fs.buf) : EmptyCandidate t := by
  unfold EmptyCandidate
  rw [hc, hb]
  exact h

theorem emptyCandidate_dropCandidate (s : State) : EmptyCandidate (dropCandidate s) :=
  ⟨rfl, fun _ _ => rfl⟩

/-- While hunting no byte is held (R31 (ii), (iii)). -/
theorem CandidateInv.emptyCandidate_of_hunt {s : State} (h : CandidateInv s) (hm : s.fs.mode = some .hunt) :
    EmptyCandidate s := by
  obtain ⟨c, hc⟩ := Option.isSome_iff_exists.mp h.countHeld
  have hzero : c.toNat = 0 := countNat_of_count hc ▸ h.huntCount hm
  refine ⟨by rw [hc, BitVec.eq_of_toNat_eq (y := 0#7) hzero], fun i hi => ?_⟩
  have hnone : ¬(s.fs.buf.read i).isSome = true := fun hsome => by
    simpa [hm] using ((h.candidate i hi).mp hsome).1
  simpa using hnone

theorem candidateInv_of_emptyCandidate {s : State} (he : EmptyCandidate s) (hm : s.fs.mode.isSome = true)
    (hd : discLegal s = true) : CandidateInv s := by
  obtain ⟨hcount, hbuf⟩ := he
  have hzero : countNat s = 0 := countNat_of_count hcount
  exact
    { modeHeld := hm
      countHeld := by rw [hcount]; rfl
      countAtMost := by omega
      huntCount := fun _ => hzero
      candidate := fun i hi => by simp [hbuf i hi, hzero]
      disc := hd }

/-- RESET, FAIL and an accepted frame all end so: no candidate and `fs_disc` 0. -/
theorem candidateInv_setDisc_zero_dropCandidate {s : State} (hm : s.fs.mode.isSome = true)
    (hl : s.build.huntLimit ≠ some 0) : CandidateInv (settleNb (setDisc 0 (dropCandidate s))) :=
  candidateInv_of_emptyCandidate (emptyCandidate_of_eq (emptyCandidate_dropCandidate s) rfl rfl) hm
    (discLegal_of_disc_zero rfl hl)

/-! ## `discard` (R109) -/

theorem discardBytes_total {k : Nat} {next : FsMode} {s : State} (hd : discLegal s = true) :
    ∃ t, discardBytes k next s = .ok t := by
  obtain ⟨d, hheld, -⟩ := discLegal_iff.mp hd
  rcases discardBytes_cases k next s with ⟨-, h⟩ | ⟨n, -, hnone, -⟩ | ⟨n, d, -, -, -, h⟩ | ⟨n, d, -, -, -, h⟩
  · exact ⟨_, h⟩
  · rw [hheld] at hnone; cases hnone
  · exact ⟨_, h⟩
  · exact ⟨_, h⟩

/-- Where `discard` answers: no limit, the limit reached, or the bytes counted below it. -/
theorem discardBytes_ok_cases {k : Nat} {next : FsMode} {s t : State} (h : discardBytes k next s = .ok t) :
    (s.build.huntLimit = none ∧ t = setMode next s) ∨
    (s.build.huntLimit ≠ none ∧ t = raiseEvent .framingDesyncTimeout
      { s with fs := { s.fs with disc := some 0, mode := some .collect, count := some 0#7 } }) ∨
    (∃ n d, s.build.huntLimit = some n ∧ d + k < n ∧ t = setMode next (setDisc (d + k) s)) := by
  rcases discardBytes_cases k next s with ⟨hl, h1⟩ | ⟨n, -, -, h1⟩ | ⟨n, d, hl, -, -, h1⟩ | ⟨n, d, hl, -, hlt, h1⟩ <;>
    rw [h1] at h <;> cases h
  · exact .inl ⟨hl, rfl⟩
  · exact .inr (.inl ⟨by simp [hl], rfl⟩)
  · exact .inr (.inr ⟨n, d, hl, hlt, rfl⟩)

/-- `discard` keeps `fs_disc` below the limit: it either adds what stays below it or starts again at 0. -/
theorem discardBytes_discLegal {k : Nat} {next : FsMode} {s t : State} (h : discardBytes k next s = .ok t)
    (hd : discLegal s = true) : discLegal t = true := by
  rcases discardBytes_ok_cases h with ⟨-, rfl⟩ | ⟨-, rfl⟩ | ⟨n, d, hl, hlt, rfl⟩
  · exact hd
  · exact discLegal_of_disc_zero rfl (huntLimit_ne_zero_of_discLegal (s := s) hd)
  · exact discLegal_iff.mpr ⟨d + k, rfl, by simp [hl], by simp [hl, hlt]⟩

theorem discardBytes_mode_held {k : Nat} {next : FsMode} {s t : State} (h : discardBytes k next s = .ok t) :
    t.fs.mode.isSome = true := by
  rcases discardBytes_ok_cases h with ⟨-, rfl⟩ | ⟨-, rfl⟩ | ⟨n, d, -, -, rfl⟩ <;> rfl

theorem discardBytes_emptyCandidate {k : Nat} {next : FsMode} {s t : State} (h : discardBytes k next s = .ok t)
    (he : EmptyCandidate s) : EmptyCandidate t := by
  rcases discardBytes_ok_cases h with ⟨-, rfl⟩ | ⟨-, rfl⟩ | ⟨n, d, -, -, rfl⟩
  · exact he
  · obtain ⟨-, hbuf⟩ := he
    exact ⟨rfl, hbuf⟩
  · exact he

/-- `discard` emits `desync_err` only at a limit, and no other pulse. -/
theorem discardBytes_pulses {k : Nat} {next : FsMode} {s t : State} (h : discardBytes k next s = .ok t) :
    t.pulses = s.pulses ∨ (s.build.huntLimit ≠ none ∧ t.pulses = { s.pulses with desyncErr := true }) := by
  rcases discardBytes_ok_cases h with ⟨-, rfl⟩ | ⟨hl, rfl⟩ | ⟨n, d, -, -, rfl⟩
  · exact .inl rfl
  · exact .inr ⟨hl, rfl⟩
  · exact .inl rfl

/-- A discard with no candidate held leaves FS legal: COLLECT_REJECT, HUNT_SKIP and HUNT_END. -/
theorem fsInv_of_discardBytes {k : Nat} {next : FsMode} {s t : State} (h : discardBytes k next s = .ok t)
    (he : EmptyCandidate s) (hd : discLegal s = true) (hframe : FrameInv s.last) : FsInv (settleNb t) := by
  have hcand : CandidateInv t := candidateInv_of_emptyCandidate (discardBytes_emptyCandidate h he)
    (discardBytes_mode_held h) (discardBytes_discLegal h hd)
  obtain ⟨-, hlast, -⟩ := discardBytes_frame h
  exact fsInv_iff.mpr ⟨candidateInv_of_eq hcand rfl rfl, hlast ▸ hframe⟩

/-! ## COLLECT_STORE -/

/-- Storing a byte at `fs_count` lengthens the held part of `fs_buf` by one (R31 (iii), R104). -/
theorem candidateInv_storeCandidate {s : State} {c : BitVec 7} (b : Byte) (h : CandidateInv s)
    (hm : s.fs.mode = some .collect) (hc : s.fs.count = some c) (hlt : c.toNat < 104) :
    CandidateInv (storeCandidate c b s) := by
  have hold : countNat s = c.toNat := countNat_of_count hc
  have hnew : countNat (storeCandidate c b s) = c.toNat + 1 := by
    have hcount : (storeCandidate c b s).fs.count = some (c + 1#7) := rfl
    rw [countNat_of_count hcount]
    bv_omega
  exact
    { modeHeld := h.modeHeld
      countHeld := rfl
      countAtMost := by omega
      huntCount := fun hhunt => by simp [hm] at hhunt
      candidate := fun i hi => by
        have hprev := h.candidate i hi
        rw [hnew]
        simp only [storeCandidate_fs, read_write, hm, true_and, hold] at hprev ⊢
        split
        · simp only [Option.isSome_some, true_iff]; omega
        · rw [hprev]; omega
      disc := h.disc }

/-! ## The last frame -/

theorem frameInv_cleared : FrameInv { bytes := Memory.invalidated, valid := some false } where
  validHeld := rfl
  invalidFrame := by simp
  wholeFrame := by simp
  markers := by simp

/-- 105 written bytes with a marker at both ends are a whole frame, whatever was there before (R27, R105). -/
theorem frameInv_writeBytes {bytes : List Byte} (m : Memory) (hlen : bytes.length = 105)
    (hfirst : bytes[0]? = some Config.marker) (hlast : bytes[104]? = some Config.marker) :
    FrameInv { bytes := m.writeBytes 0 bytes, valid := some true } := by
  have hread : ∀ i, i < 105 → (m.writeBytes 0 bytes).read i = bytes[i]? := fun i hi => by
    simp [read_writeBytes, hlen, hi]
  exact
    { validHeld := rfl
      invalidFrame := ⟨by simp, fun hnone => by
        have h0 := hnone 0 (by omega)
        rw [hread 0 (by omega), hfirst] at h0
        cases h0⟩
      wholeFrame := fun _ i hi => by rw [hread i hi]; simp [hlen, hi]
      markers := fun _ => ⟨by rw [hread 0 (by omega), hfirst], by rw [hread 104 (by omega), hlast]⟩ }

/-- What COLLECT_ACCEPT publishes is a whole frame between markers. -/
theorem frameInv_accepted {s : State} {bytes : List Byte} (hfirst : readByte .cand 0 s = .ok Config.marker)
    (hbytes : readBytes .cand s 0 104 = .ok bytes) (m : Memory) :
    FrameInv { bytes := m.writeBytes 0 (bytes ++ [Config.marker]), valid := some true } := by
  obtain ⟨hlen, hread⟩ := readBytes_eq_ok.mp hbytes
  refine frameInv_writeBytes m (by simp [hlen]) ?_ (by simp [hlen])
  have h0 : Config.marker = bytes.getD 0 0#8 := Except.ok.inj (hfirst.symm.trans (hread 0 (by omega)))
  rw [List.getElem?_append_left (by omega), h0, List.getD_eq_getElem?_getD, List.getElem?_eq_getElem (by omega)]
  rfl

/-! ## Every step keeps the invariants -/

/-- The state after RESET is legal, whatever the state before it. -/
theorem fsInv_reset {s : State} (hl : s.build.huntLimit ≠ some 0) :
    FsInv (settleNb (clearLastFrame (setDisc 0 (dropCandidate (setMode .collect (beginStep s)))))) :=
  fsInv_iff.mpr ⟨candidateInv_of_eq (candidateInv_setDisc_zero_dropCandidate
    (s := setMode .collect (beginStep s)) rfl hl) rfl rfl, frameInv_cleared⟩

theorem takeWord_keeps_fsInv {w : StreamWord} {s t : State} (h : FsInv s) (hw : takeWord w s = .next t) :
    FsInv t := by
  obtain ⟨hcand, hframe⟩ := fsInv_iff.mp h
  have hlimit := huntLimit_ne_zero_of_discLegal hcand.disc
  have hbegin : CandidateInv (beginStep s) := candidateInv_of_eq hcand rfl rfl
  rcases takeWord_next_cases hw with ⟨-, rfl⟩ | ⟨-, rfl⟩ | ⟨-, rfl⟩ | ⟨b, c, -, hm, hc, hlt, rfl⟩ |
    ⟨c, bytes, -, hm, -, -, hfirst, hbytes, rfl⟩ | ⟨b, c, b0, u, -, -, -, -, -, -, hu, rfl⟩ |
    ⟨b, u, -, hm, -, hu, rfl⟩ | ⟨u, -, hm, hu, rfl⟩
  · exact fsInv_reset hlimit
  · exact fsInv_iff.mpr ⟨candidateInv_setDisc_zero_dropCandidate rfl hlimit, hframe⟩
  · exact fsInv_of_eq h rfl rfl rfl
  · exact fsInv_iff.mpr ⟨candidateInv_of_eq (candidateInv_storeCandidate b hbegin hm hc hlt) rfl rfl, hframe⟩
  · exact fsInv_iff.mpr ⟨candidateInv_setDisc_zero_dropCandidate hcand.modeHeld hlimit,
      frameInv_accepted hfirst hbytes s.last.bytes⟩
  · have hempty : EmptyCandidate (raiseEvent .framingDesync (dropCandidate (beginStep s))) :=
      emptyCandidate_of_eq (emptyCandidate_dropCandidate (beginStep s)) rfl rfl
    exact fsInv_of_discardBytes hu hempty hcand.disc hframe
  · exact fsInv_of_discardBytes hu (hbegin.emptyCandidate_of_hunt hm) hbegin.disc hframe
  · exact fsInv_of_discardBytes hu (hbegin.emptyCandidate_of_hunt hm) hbegin.disc hframe

/-- Settles O37: a word keeps the two halves of R31 transition by transition, and no host action touches what they
speak of. -/
theorem stepKeepsFsInvariant : Obligations.StepKeepsFsInvariant := by
  intro s t h hstep
  rcases step_next_word_or_host hstep with ⟨w, rest, hw⟩ | ⟨hb, hf, hl, -⟩
  · exact takeWord_keeps_fsInv (fsInv_of_eq (t := { s with input := rest }) h rfl rfl rfl) hw
  · exact fsInv_of_eq h hb hf hl

/-! ## Every word completes in a legal state -/

/-- The state-selected row a selection names. -/
def ByteOp.row (b : Byte) : ByteOp → Instr
  | .collectStore => .collectStore b
  | .collectAccept => .collectAccept b
  | .collectReject => .collectReject b
  | .huntSkip => .huntSkip b
  | .huntEnd => .huntEnd b

/-- BYTE is the row R100 selects. -/
theorem execByte_of_selected {b : Byte} {s : State} {op : ByteOp} (h : selectByteOp b s = .ok op) :
    execByte b s = exec (op.row b) s := by
  unfold execByte
  rw [h]
  cases op <;> rfl

theorem execCollectStore_of_selected {b : Byte} {s : State} {c : BitVec 7}
    (h : selectByteOp b s = .ok .collectStore) (hc : s.fs.count = some c) :
    execCollectStore b s = .next (settleNb (storeCandidate c b (beginStep s))) := by
  simp [execCollectStore, whenSelected_eq _ h, hc]

theorem execCollectAccept_of_selected {b : Byte} {s : State} {bytes : List Byte}
    (h : selectByteOp b s = .ok .collectAccept) (hbytes : readBytes .cand s 0 104 = .ok bytes) :
    execCollectAccept b s =
      .next (settleNb (setDisc 0 (dropCandidate (emitFrameDone (setLastFrame (bytes ++ [b]) (beginStep s)))))) := by
  simp [execCollectAccept, whenSelected_eq _ h, hbytes, Config.frameLen]

theorem execCollectReject_of_selected {b : Byte} {s u : State} (h : selectByteOp b s = .ok .collectReject)
    (hu : discardBytes 105 .hunt (raiseEvent .framingDesync (dropCandidate (beginStep s))) = .ok u) :
    execCollectReject b s = .next (settleNb u) := by
  simp [execCollectReject, whenSelected_eq _ h, hu, Config.frameLen]

theorem execHuntSkip_of_selected {b : Byte} {s u : State} (h : selectByteOp b s = .ok .huntSkip)
    (hu : discardBytes 1 .hunt (beginStep s) = .ok u) : execHuntSkip b s = .next (settleNb u) := by
  simp [execHuntSkip, whenSelected_eq _ h, hu]

theorem execHuntEnd_of_selected {b : Byte} {s u : State} (h : selectByteOp b s = .ok .huntEnd)
    (hu : discardBytes 1 .collect (beginStep s) = .ok u) : execHuntEnd b s = .next (settleNb u) := by
  simp [execHuntEnd, whenSelected_eq _ h, hu]

/-- In a legal state the selection answers: it reads `fs_buf[0]` only of a candidate of 104 held bytes. -/
theorem exists_selectByteOp {s : State} (h : CandidateInv s) (b : Byte) : ∃ op, selectByteOp b s = .ok op := by
  rcases selectByteOp_cases b s with ⟨hm, -⟩ | ⟨-, hsel⟩ | ⟨-, hc, -⟩ | ⟨c, -, -, -, hsel⟩ | ⟨c, b0, -, -, -, -, hsel⟩ |
    ⟨c, f, hm, hc, hfull, hr, -⟩
  · have := h.modeHeld
    simp [hm] at this
  · exact ⟨_, hsel⟩
  · have := h.countHeld
    simp [hc] at this
  · exact ⟨_, hsel⟩
  · exact ⟨_, hsel⟩
  · have hheld : (s.fs.buf.read 0).isSome = true := (h.candidate 0 (by omega)).mpr
      ⟨hm, by rw [countNat_of_count hc]; exact Nat.lt_of_lt_of_le (by omega) (beforeLastByte_eq_false.mp hfull)⟩
    obtain ⟨b0, hb0⟩ := Option.isSome_iff_exists.mp hheld
    have hread : readByte .cand 0 s = .ok b0 := readByte_eq_ok.mpr ⟨by simp, hb0⟩
    rw [hread] at hr
    cases hr

/-- A full candidate is read whole. -/
theorem exists_readBytes_cand {s : State} {c : BitVec 7} (h : CandidateInv s) (hm : s.fs.mode = some .collect)
    (hc : s.fs.count = some c) (hfull : 104 ≤ c.toNat) : ∃ bytes, readBytes .cand s 0 104 = .ok bytes :=
  readBytes_total (by simp) fun j hj => by
    simpa using (h.candidate j (by omega)).mpr ⟨hm, by rw [countNat_of_count hc]; omega⟩

/-- COLLECT_ACCEPT is selected only at the end of a candidate. -/
theorem full_of_selected_collectAccept {b : Byte} {s : State} (h : selectByteOp b s = .ok .collectAccept) :
    ∃ c, s.fs.mode = some .collect ∧ s.fs.count = some c ∧ 104 ≤ c.toNat := by
  rcases selectByteOp_cases b s with ⟨-, h1⟩ | ⟨-, h1⟩ | ⟨-, -, h1⟩ | ⟨c, -, -, -, h1⟩ |
    ⟨c, b0, hm, hc, hfull, -, -⟩ | ⟨c, f, -, -, -, -, h1⟩
  case inr.inr.inr.inr.inl => exact ⟨c, hm, hc, beforeLastByte_eq_false.mp hfull⟩
  case inr.inl => rw [h1] at h; split at h <;> cases h
  all_goals rw [h1] at h; cases h

/-- In a legal state the row R100 selects goes on: `fs_count`, the candidate's bytes and `fs_disc` are held. -/
theorem exists_execByte_next {s : State} (h : CandidateInv s) (b : Byte) : ∃ t, execByte b s = .next t := by
  obtain ⟨op, hop⟩ := exists_selectByteOp h b
  rw [execByte_of_selected hop]
  cases op with
  | collectStore =>
    obtain ⟨c, hc⟩ := Option.isSome_iff_exists.mp h.countHeld
    exact ⟨_, execCollectStore_of_selected hop hc⟩
  | collectAccept =>
    obtain ⟨c, hm, hc, hfull⟩ := full_of_selected_collectAccept hop
    obtain ⟨bytes, hbytes⟩ := exists_readBytes_cand h hm hc hfull
    exact ⟨_, execCollectAccept_of_selected hop hbytes⟩
  | collectReject =>
    obtain ⟨u, hu⟩ := discardBytes_total (k := 105) (next := .hunt)
      (s := raiseEvent .framingDesync (dropCandidate (beginStep s))) h.disc
    exact ⟨_, execCollectReject_of_selected hop hu⟩
  | huntSkip =>
    obtain ⟨u, hu⟩ := discardBytes_total (k := 1) (next := .hunt) (s := beginStep s) h.disc
    exact ⟨_, execHuntSkip_of_selected hop hu⟩
  | huntEnd =>
    obtain ⟨u, hu⟩ := discardBytes_total (k := 1) (next := .collect) (s := beginStep s) h.disc
    exact ⟨_, execHuntEnd_of_selected hop hu⟩

theorem exists_takeWord_next {s : State} (h : FsInv s) (w : StreamWord) : ∃ t, takeWord w s = .next t := by
  unfold takeWord
  rcases decode_cases w with hw | hw | hw | ⟨b, hw⟩ <;> rw [hw]
  · exact ⟨_, rfl⟩
  · exact ⟨_, rfl⟩
  · exact ⟨_, rfl⟩
  · exact exists_execByte_next (fsInv_iff.mp h).1 b

/-- From a legal state any words run to the end, in a legal state. -/
theorem exists_takeWords_of_fsInv (ws : List StreamWord) {s : State} (h : FsInv s) :
    ∃ t, takeWords ws s = some t ∧ FsInv t := by
  induction ws generalizing s with
  | nil => exact ⟨s, rfl, h⟩
  | cons w ws ih =>
    obtain ⟨u, hu⟩ := exists_takeWord_next h w
    obtain ⟨t, ht, hinv⟩ := ih (takeWord_keeps_fsInv h hu)
    exact ⟨t, by simp only [takeWords, hu, ht], hinv⟩

/-- Settles O38: RESET makes any state legal, and from there every word completes and keeps it so. -/
theorem everyRunFromResetIsLegal : Obligations.EveryRunFromResetIsLegal := fun _ ws hl =>
  exists_takeWords_of_fsInv ws (fsInv_reset hl)

/-! ## RD's inputs -/

theorem rdInputsLegal_of_eq {s t : State} (h : RdInputsLegal s) (hb : t.build = s.build) (hr : t.rdIn = s.rdIn) :
    RdInputsLegal t where
  payload := by rw [hr]; exact h.payload
  tied := by rw [hb, hr]; exact h.tied

/-- Whatever the engine answers, RD's inputs are legal: the payload entries below the saturated length hold its bytes
(R219). -/
theorem rdInputsLegal_driveRd (plain : List Byte) (authOk : Bool) (s : State) :
    RdInputsLegal (driveRd plain authOk s) where
  payload i hi := by
    have hsat : (BitVec.ofNat 8 (min plain.length 255)).toNat = min plain.length 255 := by
      rw [BitVec.toNat_ofNat]; omega
    simp only [driveRd_rdIn, hsat, read_writeBytes, read_invalidated, List.length_take, Config.payloadLen]
    split
    · rename_i hin
      simp only [Nat.sub_zero, isSome_getElem?, List.length_take]
      omega
    · simp only [Option.isSome_none, Bool.false_eq_true, false_iff]
      omega
  tied hfalse := by simp_all

/-- Settles O41: only an engine result changes RD's inputs, and it drives legal ones. -/
theorem stepKeepsRdInputsLegal : Obligations.StepKeepsRdInputsLegal := by
  intro s t h hstep
  rcases step_next_word_or_host hstep with ⟨w, rest, hw⟩ | ⟨hb, -, -, hr | ⟨plain, authOk, hr⟩⟩
  · obtain ⟨hb, hr, -⟩ := takeWord_fsFrame hw
    exact rdInputsLegal_of_eq h hb hr
  · exact rdInputsLegal_of_eq h hb hr
  · exact rdInputsLegal_of_eq (rdInputsLegal_driveRd plain authOk s) hb hr

/-! ## Pulses and the last frame -/

/-- Which pulse each word emits and what it does to the last frame: five cases, told apart by the pulse and RESET. -/
theorem takeWord_pulse_cases {w : StreamWord} {s t : State} (h : takeWord w s = .next t) :
    (decode w = .reset ∧ t.pulses = noPulses ∧ t.last.valid = some false) ∨
    (decode w = .fail ∧ t.pulses = { noPulses with connErr := true } ∧ t.last = s.last) ∨
    (decode w = .byte Config.marker ∧ t.pulses = { noPulses with frameDone := true } ∧ t.last.valid = some true) ∨
    (decode w ≠ .fail ∧ t.pulses = noPulses ∧ t.last = s.last) ∨
    ((∃ b, decode w = .byte b) ∧ s.build.huntLimit ≠ none ∧ t.pulses = { noPulses with desyncErr := true } ∧
      t.last = s.last) := by
  rcases takeWord_next_cases h with ⟨hw, rfl⟩ | ⟨hw, rfl⟩ | ⟨hw, rfl⟩ | ⟨b, c, hw, -, -, -, rfl⟩ |
    ⟨c, bytes, hw, -, -, -, -, -, rfl⟩ | ⟨b, c, b0, u, hw, -, -, -, -, -, hu, rfl⟩ | ⟨b, u, hw, -, -, hu, rfl⟩ |
    ⟨u, hw, -, hu, rfl⟩
  · exact .inl ⟨hw, rfl, rfl⟩
  · exact .inr (.inl ⟨hw, rfl, rfl⟩)
  · exact .inr (.inr (.inr (.inl ⟨by simp [hw], rfl, rfl⟩)))
  · exact .inr (.inr (.inr (.inl ⟨by simp [hw], rfl, rfl⟩)))
  · exact .inr (.inr (.inl ⟨hw, rfl, rfl⟩))
  all_goals
    obtain ⟨-, hlast, -⟩ := discardBytes_frame hu
    rcases discardBytes_pulses hu with hp | ⟨hl, hp⟩
    · exact .inr (.inr (.inr (.inl ⟨by simp [hw], hp, hlast⟩)))
    · exact .inr (.inr (.inr (.inr ⟨⟨_, hw⟩, hl, hp, hlast⟩)))

/-- Settles O44: read off the five cases of `takeWord_pulse_cases`. -/
theorem pulsesComeFromTheirWords : Obligations.PulsesComeFromTheirWords := by
  intro w s t h
  rcases takeWord_pulse_cases h with ⟨hw, hp, -⟩ | ⟨hw, hp, -⟩ | ⟨hw, hp, hv⟩ | ⟨hw, hp, -⟩ | ⟨⟨b, hw⟩, hl, hp, -⟩
  · simp [hw, hp, noPulses]
  · simp [hw, hp, noPulses]
  · simp [hw, hp, hv, noPulses]
  · simp [hw, hp, noPulses]
  · simp [hw, hp, hl, noPulses]

/-- Settles O45: of the five cases of `takeWord_pulse_cases` only RESET and acceptance change the last frame. -/
theorem lastFrameChangesOnlyOnAcceptOrReset : Obligations.LastFrameChangesOnlyOnAcceptOrReset := by
  intro w s t h hne
  rcases takeWord_pulse_cases h with ⟨hw, -, hv⟩ | ⟨-, -, hl⟩ | ⟨-, hp, hv⟩ | ⟨-, -, hl⟩ | ⟨-, -, -, hl⟩
  · exact .inl ⟨hw, hv⟩
  · exact absurd hl hne
  · exact .inr ⟨by rw [hp], hv⟩
  · exact absurd hl hne
  · exact absurd hl hne

/-! ## The reset state -/

/-- Settles O10: RESET writes every register of FS and of the last frame, and the rest of the power-on state is the
reset state's. -/
theorem resetFromPowerOnIsReset : Obligations.ResetFromPowerOnIsReset := rfl

/-- Settles O36: the reset state is the one RESET leaves (O10), so R31 holds in it as after any RESET; RD's inputs hold
no byte, and the ports are computed. -/
theorem resetStateIsLegal : Obligations.ResetStateIsLegal := by
  refine ⟨?_, ⟨fun i _ => ?_, fun _ => rfl⟩, rfl, rfl, rfl⟩
  · exact fsInv_reset (s := State.powerOn State.reset.build) (by decide)
  · simp [State.reset]

end Sys2Proof.Machine
end

section
/-! PROOFS, 20_memory.md: the byte spaces keep their canonical form (R50), and evaluating a port of NB or RD that
carries its function's value changes nothing (R58). -/
namespace Sys2Proof.Machine

/-! ## The byte spaces stay in canonical form (R50) -/

theorem memoriesWf_iff {s : State} :
    memoriesWf s = true ↔
      s.fs.buf.wf 105 = true ∧ s.last.bytes.wf 105 = true ∧ s.rdIn.pl.wf 74 = true := by
  simp [memoriesWf, and_assoc]

/-- What COLLECT_ACCEPT publishes is 105 bytes, which stay inside `last_frame`. -/
theorem wf_writeBytes_accepted {s : State} {bytes : List Byte} {m : Memory}
    (hbytes : readBytes .cand s 0 104 = .ok bytes) (hm : m.wf 105 = true) :
    (m.writeBytes 0 (bytes ++ [Config.marker])).wf 105 = true := by
  obtain ⟨hlen, -⟩ := readBytes_eq_ok.mp hbytes
  exact wf_writeBytes _ m (by simp [hlen]) hm

/-- Whatever the engine answers, at most 74 bytes of it are written to `rd_pl`. -/
theorem wf_driveRd (plain : List Byte) (authOk : Bool) (s : State) :
    (driveRd plain authOk s).rdIn.pl.wf 74 = true :=
  wf_writeBytes _ _ (by simp [Config.payloadLen]) (wf_invalidated 74)

/-- A word writes `fs_buf` by emptying it or by storing one byte below index 104, and `last_frame` by emptying it or by
publishing a whole frame. -/
theorem takeWord_keeps_memoriesWf {w : StreamWord} {s t : State} (h : memoriesWf s = true)
    (hw : takeWord w s = .next t) : memoriesWf t = true := by
  obtain ⟨hbuf, hlast, hpl⟩ := memoriesWf_iff.mp h
  have hempty : Memory.invalidated.wf 105 = true := wf_invalidated 105
  rw [memoriesWf_iff]
  rcases takeWord_next_cases hw with ⟨-, rfl⟩ | ⟨-, rfl⟩ | ⟨-, rfl⟩ | ⟨b, c, -, -, -, hlt, rfl⟩ |
    ⟨c, bytes, -, -, -, -, -, hbytes, rfl⟩ | ⟨b, c, b0, u, -, -, -, -, -, -, hu, rfl⟩ | ⟨b, u, -, -, -, hu, rfl⟩ |
    ⟨u, -, -, hu, rfl⟩
  · exact ⟨hempty, hempty, hpl⟩
  · exact ⟨hempty, hlast, hpl⟩
  · exact ⟨hbuf, hlast, hpl⟩
  · exact ⟨wf_write _ b (by omega) hbuf, hlast, hpl⟩
  · exact ⟨hempty, wf_writeBytes_accepted hbytes hlast, hpl⟩
  all_goals
    obtain ⟨-, hl, -, hr, -, -, hb, -⟩ := discardBytes_frame hu
    rw [settleNb_fs, settleNb_last, settleNb_rdIn, hb, hl, hr]
  · exact ⟨hempty, hlast, hpl⟩
  · exact ⟨hbuf, hlast, hpl⟩
  · exact ⟨hbuf, hlast, hpl⟩

/-- Settles O39: a word keeps the form transition by transition, and of the host's actions only an engine result writes
a space, `rd_pl`, from empty. -/
theorem stepKeepsMemoriesCanonical : Obligations.StepKeepsMemoriesCanonical := by
  intro s t h hstep
  rcases step_next_word_or_host hstep with ⟨w, rest, hw⟩ | ⟨-, hf, hl, hr⟩
  · exact takeWord_keeps_memoriesWf (s := { s with input := rest }) h hw
  · obtain ⟨hbuf, hlast, hpl⟩ := memoriesWf_iff.mp h
    rw [memoriesWf_iff, hf, hl]
    refine ⟨hbuf, hlast, ?_⟩
    rcases hr with hr | ⟨plain, authOk, hr⟩ <;> rw [hr]
    · exact hpl
    · exact wf_driveRd plain authOk s

/-! ## RD's output ports as functions of its inputs, by the outcome of the check -/

/-- While the check passes, RD's ports are those of the reading, where every field reads. -/
theorem rdPortsOf_of_checkPasses {s : State} (hc : CheckPasses s) :
    rdPortsOf s = (readReading s).toOption.map readingPorts := by
  unfold rdPortsOf decodePayload
  rw [rdCheckOf_passes hc]
  cases readReading s <;> rfl

theorem rdPortsOf_of_check_fails {s : State} {c : RdCause} (hc : rdCheckOf s = .ok c) (hne : c ≠ .noCause) :
    rdPortsOf s = some (RdPorts.failed c) := by
  unfold rdPortsOf decodePayload
  rw [hc]
  cases c with
  | noCause => exact absurd rfl hne
  | len => rfl
  | tag => rfl
  | auth => rfl

/-- Ports that agree with a passing check carry a reading. -/
theorem RdAgree.exists_reading {s : State} (h : RdAgree s) (hc : CheckPasses s) :
    ∃ r, readReading s = .ok r ∧ s.rd = readingPorts r := by
  unfold RdAgree at h
  rw [rdPortsOf_of_checkPasses hc] at h
  cases hr : readReading s with
  | error f => rw [hr] at h; cases h
  | ok r => rw [hr] at h; exact ⟨r, rfl, (Option.some.inj h).symm⟩

/-! ## Driving a port with the value it carries -/

theorem with_rd_eq_self {s : State} {rd : RdPorts} (h : rd = s.rd) : { s with rd := rd } = s := by
  rw [h]

theorem with_nb_eq_self {s : State} {nb : NbPorts} (h : nb = s.nb) : { s with nb := nb } = s := by
  rw [h]

/-- A field operation that goes on reads its field of the payload whose reading RD's ports carry. -/
theorem RdAgree.exists_reading_of_readField {α : Type} {p : Port} {v : Except Fault α} {put : α → State} {s t : State}
    (ha : RdAgree s) (h : readField p v put s = .next t) :
    ∃ r x, readReading s = .ok r ∧ s.rd = readingPorts r ∧ v = .ok x ∧ t = put x := by
  obtain ⟨hc, x, hx, ht⟩ := readField_next h
  obtain ⟨r, hr, hports⟩ := ha.exists_reading hc
  exact ⟨r, x, hr, hports, hx, ht⟩

theorem execRdCheck_idempotent {s t : State} (ha : RdAgree s) (h : execRdCheck s = .next t) : t = s := by
  rcases execRdCheck_next h with ⟨hc, rfl⟩ | ⟨c, hc, hne, rfl⟩
  · obtain ⟨r, -, hports⟩ := ha.exists_reading hc
    exact with_rd_eq_self (by rw [hports]; rfl)
  · exact with_rd_eq_self (Option.some.inj ((rdPortsOf_of_check_fails hc hne).symm.trans ha))

theorem execRdDecode_idempotent {s t : State} (ha : RdAgree s) (h : execRdDecode s = .next t) : t = s := by
  obtain ⟨rd, hrd, rfl⟩ := execRdDecode_next h
  exact with_rd_eq_self (Option.some.inj (hrd.symm.trans ha))

/-- Settles O47: an operation that goes on drives one port of NB, RD's check ports, all of RD's ports or one field, each
with the value it carries. -/
theorem evaluatingPortsIsIdempotent : Obligations.EvaluatingPortsIsIdempotent := by
  intro i s t hf hnb hrd h
  cases i
  case reset | fail | byte | idle | collectStore | collectAccept | collectReject | huntSkip | huntEnd => cases hf
  case nbStitle | nbIc | nbNonce | nbCtext =>
    obtain ⟨v, hv, hk⟩ := withValue_next h
    cases hk
    exact with_nb_eq_self (by rw [hnb]; simp [nbPortsOf, portValue, hv])
  case rdCheck => exact execRdCheck_idempotent hrd h
  case rdDecode => exact execRdDecode_idempotent hrd h
  case rdYear | rdMonth | rdDay | rdHour | rdMinute | rdSecond | rdAei | rdAeo | rdRei | rdReo | rdApi | rdApo | rdRpi |
      rdRpo =>
    obtain ⟨r, x, hr, hports, hx, rfl⟩ := hrd.exists_reading_of_readField h
    simp only [readReading_fields hr, Except.ok.injEq] at hx
    subst hx
    exact with_rd_eq_self (by rw [hports]; rfl)

end Sys2Proof.Machine
end

section
/-! PROOFS, 30_encoding.md: the decoder by the control bits of a word (R72), BYTE's canonical word and the round trip
(R78), the bits a word's meaning ignores (R74), the assembler's pseudo-instructions (R77), and the actions that are no
word (R71). -/
namespace Sys2Proof.Machine

/-! ## The masks of R72's table read the control bits -/

/-- A mask and match test, bit by bit. -/
theorem and_mask_eq_iff_forall_getLsbD {w mask pat : StreamWord} :
    w &&& mask = pat ↔ ∀ i, i < 11 → (w.getLsbD i && mask.getLsbD i) = pat.getLsbD i := by
  simp only [BitVec.eq_of_getLsbD_eq_iff, BitVec.getLsbD_and]

theorem and_mask_eq_reset_iff {w : StreamWord} : w &&& 0x400#11 = 0x400#11 ↔ w.getLsbD 10 = true := by
  simp only [and_mask_eq_iff_forall_getLsbD, Nat.forall_lt_succ_right]
  simp

theorem and_mask_eq_fail_iff {w : StreamWord} :
    w &&& 0x600#11 = 0x200#11 ↔ w.getLsbD 10 = false ∧ w.getLsbD 9 = true := by
  simp only [and_mask_eq_iff_forall_getLsbD, Nat.forall_lt_succ_right]
  simp [and_comm]

theorem and_mask_eq_byte_iff {w : StreamWord} :
    w &&& 0x700#11 = 0x100#11 ↔ w.getLsbD 10 = false ∧ w.getLsbD 9 = false ∧ w.getLsbD 8 = true := by
  simp only [and_mask_eq_iff_forall_getLsbD, Nat.forall_lt_succ_right]
  simp [and_comm]

/-! ## The decode of a word, by its control bits -/

theorem decode_of_rst {w : StreamWord} (hrst : w.getLsbD 10 = true) : decode w = .reset := by
  rw [decode, if_pos (and_mask_eq_reset_iff.mpr hrst)]

theorem decode_of_fail {w : StreamWord} (hrst : w.getLsbD 10 = false) (hfail : w.getLsbD 9 = true) :
    decode w = .fail := by
  simp only [decode, and_mask_eq_reset_iff, and_mask_eq_fail_iff, hrst, hfail, Bool.false_eq_true, and_self,
    ↓reduceIte]

theorem decode_of_valid {w : StreamWord} (hrst : w.getLsbD 10 = false) (hfail : w.getLsbD 9 = false)
    (hvalid : w.getLsbD 8 = true) : decode w = .byte (dataField w) := by
  simp only [decode, and_mask_eq_reset_iff, and_mask_eq_fail_iff, and_mask_eq_byte_iff, hrst, hfail, hvalid,
    Bool.false_eq_true, and_self, and_false, ↓reduceIte]

theorem decode_of_no_control_bit {w : StreamWord} (hrst : w.getLsbD 10 = false) (hfail : w.getLsbD 9 = false)
    (hvalid : w.getLsbD 8 = false) : decode w = .idle := by
  simp only [decode, and_mask_eq_reset_iff, and_mask_eq_fail_iff, and_mask_eq_byte_iff, hrst, hfail, hvalid,
    Bool.false_eq_true, and_false, ↓reduceIte]

theorem getLsbD_dataField (w : StreamWord) {i : Nat} (hi : i < 8) : (dataField w).getLsbD i = w.getLsbD i := by
  simp [dataField, hi]

/-- Settles O2: the masks of the table are tests of the control bits, and the data bits are `w[7:0]`. -/
theorem decodeFollowsControlBits : Obligations.DecodeFollowsControlBits := fun w =>
  ⟨decode_of_rst, decode_of_fail,
    fun hrst hfail hvalid =>
      ⟨dataField w, decode_of_valid hrst hfail hvalid, fun _ hi => getLsbD_dataField w hi⟩,
    decode_of_no_control_bit⟩

/-! ## BYTE's canonical word -/

theorem dataField_byteWord (b : Byte) : dataField (byteWord b) = b := by
  apply BitVec.eq_of_getLsbD_eq
  intro i hi
  have hlow : (0x100#11).getLsbD i = false := by interval_cases i <;> rfl
  rw [getLsbD_dataField _ hi, byteWord, BitVec.getLsbD_or, BitVec.getLsbD_setWidth, hlow]
  simp [show i < 11 by omega]

@[simp] theorem decode_byteWord (b : Byte) : decode (byteWord b) = .byte b := by
  obtain ⟨hrst, hfail, hvalid⟩ := and_mask_eq_byte_iff.mp (Laws.EncodingFitsTable.byteWord_low b)
  rw [decode_of_valid hrst hfail hvalid, dataField_byteWord]

/-- The operand lies below bit 8, so that joining it to 0x100 adds it. -/
theorem toNat_byteWord (b : Byte) : (byteWord b).toNat = 0x100 + b.toNat := by
  have hb : b.toNat < 2 ^ 8 := b.isLt
  have hwide : (b.setWidth 11).toNat = b.toNat := by
    rw [BitVec.toNat_setWidth, Nat.mod_eq_of_lt (by omega)]
  calc (byteWord b).toNat = 2 ^ 8 * 1 ||| b.toNat := by rw [byteWord, BitVec.toNat_or, hwide]; rfl
    _ = 2 ^ 8 * 1 + b.toNat := (Nat.two_pow_add_eq_or_of_lt hb 1).symm

/-- Settles O3: each word by the control bits it has, and the three BYTE words as canonical ones. -/
theorem sampleWordsDecode : Obligations.SampleWordsDecode :=
  ⟨decode_of_rst rfl, decode_of_rst rfl, decode_of_rst rfl, decode_of_fail rfl rfl, decode_of_fail rfl rfl,
    decode_of_fail rfl rfl, decode_byteWord 0x7E#8, decode_byteWord 0x00#8, decode_byteWord 0xFF#8,
    decode_of_no_control_bit rfl rfl rfl, decode_of_no_control_bit rfl rfl rfl⟩

/-! ## Encoding, and decoding what was encoded -/

/-- A row of format STREAM has a word, which decodes to the row's word form, whatever its operand is. -/
theorem encode_decode_of_stream {i : Instr} (hi : i.format = .stream) :
    ∃ w, encode i = some w ∧ decode w = i.wordForm := by
  cases i with
  | reset => exact ⟨0x400#11, rfl, decode_of_rst rfl⟩
  | fail => exact ⟨0x200#11, rfl, decode_of_fail rfl rfl⟩
  | idle => exact ⟨0x000#11, rfl, decode_of_no_control_bit rfl rfl rfl⟩
  | byte b | collectStore b | collectAccept b | collectReject b | huntSkip b | huntEnd b =>
    exact ⟨byteWord b, rfl, decode_byteWord b⟩
  | _ => cases hi

theorem encode_of_comb {i : Instr} (hi : i.format = .comb) : encode i = none := by
  cases i with
  | reset | fail | byte | idle | collectStore | collectAccept | collectReject | huntSkip | huntEnd => cases hi
  | _ => rfl

theorem format_decode (w : StreamWord) : (decode w).format = .stream := by
  rcases decode_cases w with h | h | h | ⟨b, h⟩ <;> rw [h] <;> rfl

/-- No word decodes to a state-selected row. -/
theorem wordForm_decode (w : StreamWord) : (decode w).wordForm = decode w := by
  rcases decode_cases w with h | h | h | ⟨b, h⟩ <;> rw [h] <;> rfl

/-- Settles O1: the round trip over the rows of format STREAM serves both the rows and, through what a word can decode
to, the words. -/
theorem canonicalWordRoundTrip : Obligations.CanonicalWordRoundTrip := by
  refine ⟨fun i hi _ => encode_decode_of_stream hi, fun i hi => encode_of_comb hi, rfl, rfl, rfl,
    fun b => ⟨byteWord b, rfl, toNat_byteWord b⟩, fun w => ?_⟩
  obtain ⟨w', henc, hdec⟩ := encode_decode_of_stream (format_decode w)
  exact ⟨w', henc, hdec.trans (wordForm_decode w)⟩

/-! ## A word acts by its decoding alone -/

theorem takeWord_congr {v w : StreamWord} (h : decode v = decode w) (s : State) : takeWord v s = takeWord w s := by
  unfold takeWord
  rw [h]

/-- Settles O4: a word and the canonical word of its kind have the same decoding. -/
theorem nonCanonicalWordsActCanonically : Obligations.NonCanonicalWordsActCanonically := by
  intro w s
  refine ⟨fun hrst => takeWord_congr ?_ s, fun hrst hfail => takeWord_congr ?_ s,
    fun hrst hfail hvalid => takeWord_congr ?_ s⟩
  · rw [decode_of_rst hrst, decode_of_rst (w := 0x400#11) rfl]
  · rw [decode_of_fail hrst hfail, decode_of_fail (w := 0x200#11) rfl rfl]
  · rw [decode_of_no_control_bit hrst hfail hvalid, decode_of_no_control_bit (w := 0x000#11) rfl rfl rfl]

/-! ## The words of pseudo-instructions -/

@[simp] theorem length_byteWords (hs : List Byte) : (byteWords hs).length = hs.length := by
  simp [byteWords]

@[simp] theorem bytesOf_byteWords (hs : List Byte) : bytesOf (byteWords hs) = hs := by
  induction hs with
  | nil => rfl
  | cons b hs ih =>
    have hcons : bytesOf (byteWord b :: byteWords hs) = b :: bytesOf (byteWords hs) := by
      rw [bytesOf, decode_byteWord]
    exact hcons.trans (by rw [ih])

theorem expandLine_seq {a b : Byte} (h : a.toNat ≤ b.toNat) :
    expandLine (.seq a b) =
      some (byteWords ((List.range (b.toNat - a.toNat + 1)).map fun i => BitVec.ofNat 8 (a.toNat + i))) := by
  rw [expandLine, if_pos h]

theorem expandLine_frame {f : List Byte} (h : f.length = 105) : expandLine (.frame f) = some (byteWords f) := by
  exact if_pos h

theorem expandLine_slice {f : List Byte} {a b : Nat} (hab : a ≤ b) (hb : b < f.length) :
    expandLine (.slice f a b) = some (byteWords ((f.drop a).take (b - a + 1))) := by
  rw [expandLine, if_pos ⟨hab, hb⟩]

theorem expandLine_rep {n : Nat} {line : Line} {ws : List StreamWord} (h : expandLine line = some ws) :
    expandLine (.rep n line) = some (List.replicate n ws).flatten := by
  rw [expandLine, h]

/-- Entry `i` of `n` copies of a list, one after the other, is entry `i mod` its length. -/
theorem getElem?_flatten_replicate {α : Type} (xs : List α) {n i : Nat} (hi : i < n * xs.length) :
    (List.replicate n xs).flatten[i]? = xs[i % xs.length]? := by
  induction n generalizing i with
  | zero => omega
  | succ n ih =>
    rw [List.replicate_succ, List.flatten_cons]
    by_cases hfirst : i < xs.length
    · rw [List.getElem?_append_left hfirst, Nat.mod_eq_of_lt hfirst]
    · have hge : xs.length ≤ i := Nat.le_of_not_lt hfirst
      rw [Nat.succ_mul] at hi
      rw [List.getElem?_append_right hge, ih (by omega), ← Nat.mod_eq_sub_mod hge]

/-- Settles O5: the first four expand to the BYTE words of a list of bytes, which carry just that list; REP repeats a
list of words. -/
theorem pseudoInstructionsExpandInOrder : Obligations.PseudoInstructionsExpandInOrder := by
  refine ⟨fun hs => ?bytes, fun f hf => ?frame, fun a b hab => ?seq, fun f a b hab hb => ?slice,
    fun n line ws hline => ?rep⟩
  case bytes => exact ⟨byteWords hs, rfl, length_byteWords hs, bytesOf_byteWords hs⟩
  case frame => exact ⟨byteWords f, expandLine_frame hf, (length_byteWords f).trans hf, bytesOf_byteWords f⟩
  case seq =>
    refine ⟨_, expandLine_seq hab, by simp, fun i hi => ?_⟩
    have hi' : i < b.toNat - a.toNat + 1 := by simpa using hi
    simp [hi', BitVec.ofNat_add]
  case slice =>
    have hlen : ((f.drop a).take (b - a + 1)).length = b - a + 1 := by
      rw [List.length_take, List.length_drop]
      omega
    refine ⟨_, expandLine_slice hab hb, (length_byteWords _).trans hlen, fun i hi => ?_⟩
    rw [length_byteWords, hlen] at hi
    rw [bytesOf_byteWords, List.getElem?_take_of_lt hi, List.getElem?_drop]
  case rep =>
    have hlen : (List.replicate n ws).flatten.length = n * ws.length := by simp
    refine ⟨_, expandLine_rep hline, hlen, fun i hi => ?_⟩
    rw [hlen] at hi
    exact getElem?_flatten_replicate ws hi

/-! ## The actions that are no word -/

theorem step_of_input_nil {s : State} (h : s.input = []) : step s = .next s := by
  unfold step fetch
  rw [h]

theorem runInput_engine (plain : List Byte) (authOk : Bool) (s : State) :
    runInput (.engine plain authOk) s = presentResult plain authOk s := rfl

theorem runInput_evaluate (i : Instr) (s : State) : runInput (.evaluate i) s = evaluateOp i s := rfl

theorem evaluateOp_of_comb {i : Instr} (h : i.format = .comb) (s : State) : evaluateOp i s = exec i s := by
  unfold evaluateOp
  rw [h]

theorem evaluateOp_of_stream {i : Instr} (h : i.format = .stream) (s : State) :
    evaluateOp i s = .refused .notAPortOperation := by
  unfold evaluateOp
  rw [h]

/-- Settles O7: the pending action is fetched; an engine result is presented, and a row is evaluated by its format. -/
theorem stepCarriesOutHostActions : Obligations.StepCarriesOutHostActions := by
  refine ⟨fun s => step_of_input_nil, fun s plain ok rest hin => ?engine, fun s i rest hin hcomb => ?comb,
    fun s i rest hin hstream => ?stream⟩
  case engine => rw [step_of_input_cons hin, runInput_engine]
  case comb => rw [step_of_input_cons hin, runInput_evaluate, evaluateOp_of_comb hcomb]
  case stream => rw [step_of_input_cons hin, runInput_evaluate, evaluateOp_of_stream hstream]

end Sys2Proof.Machine
end

section
/-! PROOFS, 40_frame_sync.md, R100 to R109, R116: what RESET, FAIL, IDLE and each row a BYTE word selects do and leave
alone, and how long FS hunts. -/
namespace Sys2Proof.Machine

/-! ## What a step leaves alone -/

/-- NB's ports agree with the last frame again at the end of a step, so a step that keeps the frame keeps them. -/
theorem nb_settleNb_of_last_eq {s t : State} (hl : t.last = s.last) (hnb : NbAgree s) : (settleNb t).nb = s.nb :=
  (nbPortsOf_of_last_eq hl).trans hnb.symm

theorem bytesUnchangedOutside_of_spaceOf_eq {spaces : List Space} {s t : State}
    (h : ∀ sp, sp ∉ spaces → spaceOf sp t = spaceOf sp s) : BytesUnchangedOutside spaces s t :=
  fun sp i hsp => readByte_of_spaceOf_eq i (h sp hsp)

theorem bytesUnchangedOutside_cand_of_eq {s t : State} (hl : t.last = s.last) (hr : t.rdIn = s.rdIn) :
    BytesUnchangedOutside [.cand] s t :=
  bytesUnchangedOutside_of_spaceOf_eq fun sp hsp => by
    cases sp with
    | cand => simp at hsp
    | frame => simp [hl]
    | payload => simp [hr]

theorem bytesUnchangedOutside_cand_frame_of_eq {s t : State} (hr : t.rdIn = s.rdIn) :
    BytesUnchangedOutside [.cand, .frame] s t :=
  bytesUnchangedOutside_of_spaceOf_eq fun sp hsp => by
    cases sp with
    | cand | frame => simp at hsp
    | payload => simp [hr]

/-! ## RESET, FAIL and IDLE -/

theorem takeWord_of_decode {w : StreamWord} {i : Instr} (h : decode w = i) (s : State) : takeWord w s = exec i s := by
  rw [takeWord, h]

/-- Settles O9: RESET writes every register of FS and of the last frame, and touches nothing of RD. -/
theorem resetGivesResetColumn : Obligations.ResetGivesResetColumn := fun s =>
  ⟨_, rfl, fun _ hrst => takeWord_of_decode (decode_of_rst hrst) s, rfl, rfl, rfl, allNone_of_nil rfl,
    allNone_of_nil rfl, rfl, rfl, rfl, ⟨rfl, rfl, rfl, rfl⟩, bytesUnchangedOutside_cand_frame_of_eq rfl⟩

/-- Settles O12: FAIL writes FS's registers as RESET does, and the last frame, which it keeps, keeps NB's ports. -/
theorem failDropsCandidateKeepsFrame : Obligations.FailDropsCandidateKeepsFrame := fun s =>
  ⟨_, rfl, fun _ hrst hfail => takeWord_of_decode (decode_of_fail hrst hfail) s, rfl, rfl, rfl, rfl, rfl,
    allNone_of_nil rfl, rfl, nb_settleNb_of_last_eq rfl, ⟨rfl, rfl, rfl, rfl⟩,
    bytesUnchangedOutside_cand_of_eq rfl rfl⟩

/-- Settles O13: IDLE clears the pulses and recomputes NB's ports from the same frame. -/
theorem idleChangesNoState : Obligations.IdleChangesNoState := fun s =>
  ⟨_, rfl, fun _ hrst hfail hvalid => takeWord_of_decode (decode_of_no_control_bit hrst hfail hvalid) s, rfl, rfl, rfl,
    rfl, nb_settleNb_of_last_eq rfl, ⟨rfl, rfl, rfl, rfl⟩, bytesUnchanged_of_eq rfl rfl rfl⟩

/-! ## The selection of R100 -/

theorem selectByteOp_of_count_lt {s : State} {c : BitVec 7} (b : Byte) (hm : s.fs.mode = some .collect)
    (hc : s.fs.count = some c) (hlt : c.toNat < 104) : selectByteOp b s = .ok .collectStore := by
  simp [selectByteOp, hm, hc, beforeLastByte_eq_true.mpr hlt]

theorem selectByteOp_of_full {s : State} {c : BitVec 7} {b0 : Byte} (b : Byte) (hm : s.fs.mode = some .collect)
    (hc : s.fs.count = some c) (hfull : 104 ≤ c.toNat) (hr : readByte .cand 0 s = .ok b0) :
    selectByteOp b s = .ok (if b0 = Config.marker ∧ b = Config.marker then .collectAccept else .collectReject) := by
  simp only [selectByteOp, hm, hc, beforeLastByte_eq_false.mpr hfull, hr, Bool.and_eq_true, isMarker_eq_true,
    Bool.false_eq_true, ↓reduceIte]
  split <;> rfl

theorem selectByteOp_of_hunt {s : State} (b : Byte) (hm : s.fs.mode = some .hunt) :
    selectByteOp b s = .ok (if b = Config.marker then .huntEnd else .huntSkip) := by
  simp only [selectByteOp, hm, isMarker_eq_true]
  split <;> rfl

/-- A word that decodes to BYTE runs the row R100 selects. -/
theorem takeWord_of_selected {w : StreamWord} {b : Byte} {s : State} {op : ByteOp} (hw : decode w = .byte b)
    (h : selectByteOp b s = .ok op) : takeWord w s = exec (op.row b) s :=
  (takeWord_of_decode hw s).trans (execByte_of_selected h)

/-- Settles O14: BYTE is the row selected, and the selection is one of R100's three. -/
theorem byteRunsSelectedOperation : Obligations.ByteRunsSelectedOperation := by
  refine fun s b => ⟨fun c hm hc hlt => ?store, fun b0 hm hc hr => ?full, fun hm => ?hunt⟩
  case store => exact execByte_of_selected (selectByteOp_of_count_lt b hm hc hlt)
  case full =>
    refine (execByte_of_selected (selectByteOp_of_full b hm hc (by decide) hr)).trans ?_
    split <;> rfl
  case hunt =>
    refine (execByte_of_selected (selectByteOp_of_hunt b hm)).trans ?_
    split <;> rfl

/-- Settles O15: in a legal state each word, and the row each byte selects, goes on. -/
theorem everyWordCompletes : Obligations.EveryWordCompletes := fun _ h =>
  ⟨exists_takeWord_next h, exists_execByte_next (fsInv_iff.mp h).1⟩

theorem whenSelected_refused {op op' : ByteOp} {b : Byte} {s : State} (k : Result) (h : selectByteOp b s = .ok op)
    (hne : op ≠ op') : whenSelected op' b s k = .refused .notSelected := by
  simp [whenSelected, h, hne]

/-- Settles O21: each of the five rows asks the selection first. -/
theorem unselectedRowsAreRefused : Obligations.UnselectedRowsAreRefused := fun _ _ _ h =>
  ⟨whenSelected_refused _ h, whenSelected_refused _ h, whenSelected_refused _ h, whenSelected_refused _ h,
    whenSelected_refused _ h⟩

/-! ## COLLECT_STORE and COLLECT_ACCEPT -/

/-- Settles O16: the row writes `fs_buf[c]` and `fs_count` alone. -/
theorem collectStoreAppendsByte : Obligations.CollectStoreAppendsByte := by
  intro s b c hm hc hlt
  have hsel := selectByteOp_of_count_lt b hm hc hlt
  have hexec := execCollectStore_of_selected hsel hc
  refine ⟨_, hexec, fun w hw => (takeWord_of_selected hw hsel).trans hexec, ⟨c + 1#7, rfl, by bv_omega⟩, ?stored, hm,
    rfl, rfl, rfl, rfl, nb_settleNb_of_last_eq rfl, ⟨rfl, rfl, rfl, rfl⟩, ?others⟩
  case stored => exact readByte_eq_ok.mpr ⟨by simp; omega, read_write_same _ _ _⟩
  case others =>
    intro sp i hne
    cases sp with
    | cand => exact readByte_congr i (read_write_other _ _ fun hi => hne ⟨rfl, hi⟩)
    | frame | payload => exact readByte_of_spaceOf_eq i rfl

/-- An entry of `last_frame` after 105 bytes were written to it. -/
theorem readByte_frame_of_written {t : State} {m : Memory} {f : List Byte} (ht : t.last.bytes = m.writeBytes 0 f)
    (hf : f.length = 105) {i : Nat} (hi : i < 105) : readByte .frame i t = .ok (f.getD i 0#8) := by
  refine readByte_eq_ok.mpr ⟨hi, ?_⟩
  simp [ht, read_writeBytes, hf, hi]

/-- `last_frame` as a whole after 105 bytes were written to it. -/
theorem readBytes_frame_of_written {t : State} {m : Memory} {f : List Byte} (ht : t.last.bytes = m.writeBytes 0 f)
    (hf : f.length = 105) : readBytes .frame t 0 105 = .ok f :=
  readBytes_eq_ok.mpr ⟨hf, fun j hj => by rw [Nat.zero_add]; exact readByte_frame_of_written ht hf hj⟩

theorem decode_markerWord : decode 0x17E#11 = .byte Config.marker := decode_byteWord Config.marker

/-- Settles O17: the 104 bytes held are read as a block and written, with the marker after them, over `last_frame`. -/
theorem collectAcceptPublishesFrame : Obligations.CollectAcceptPublishesFrame := by
  intro s hm hc hfirst hheld
  have hsel := selectByteOp_of_full Config.marker hm hc (by decide) hfirst
  rw [if_pos ⟨rfl, rfl⟩] at hsel
  obtain ⟨bytes, hbytes⟩ : ∃ bytes, readBytes .cand s 0 104 = .ok bytes :=
    readBytes_total (by simp) fun j hj => by simpa using hheld j hj
  obtain ⟨hlen, hread⟩ := readBytes_eq_ok.mp hbytes
  have hexec := execCollectAccept_of_selected hsel hbytes
  have hframe : (bytes ++ [Config.marker]).length = 105 := by simp [hlen]
  refine ⟨_, hexec, (takeWord_of_selected decode_markerWord hsel).trans hexec, fun i hi => ?copied, ?last, rfl, rfl,
    rfl, hm, rfl, rfl, allNone_of_nil rfl, rfl, ⟨rfl, rfl, rfl, rfl⟩, bytesUnchangedOutside_cand_frame_of_eq rfl⟩
  case copied =>
    have hold := hread i hi
    rw [Nat.zero_add] at hold
    rw [readByte_frame_of_written rfl hframe (by omega), hold, List.getD_append _ _ _ _ (by omega)]
  case last =>
    rw [readByte_frame_of_written rfl hframe (by omega)]
    simp [hlen]

/-! ## `discard`: COLLECT_REJECT, HUNT_SKIP and HUNT_END -/

theorem discardBytes_of_no_limit {s : State} (k : Nat) (next : FsMode) (hl : s.build.huntLimit = none) :
    discardBytes k next s = .ok (setMode next s) := by
  simp [discardBytes, hl]

/-- The state in which `discard` leaves FS where the limit is reached (R109). -/
def timedOut (s : State) : State :=
  raiseEvent .framingDesyncTimeout
    { s with fs := { s.fs with disc := some 0, mode := some .collect, count := some 0#7 } }

theorem discardBytes_of_limit {s : State} {n d : Nat} (k : Nat) (next : FsMode) (hl : s.build.huntLimit = some n)
    (hd : s.fs.disc = some d) :
    discardBytes k next s = .ok (if n ≤ d + k then timedOut s else setMode next (setDisc (d + k) s)) := by
  simp only [discardBytes, hl, hd, limitReached, decide_eq_true_eq, timedOut]
  split <;> rfl

/-- A row that discards, in its frame: only FS's registers and the pulses change. -/
theorem discardBytes_leaves {k : Nat} {next : FsMode} {s u v : State} (h : discardBytes k next u = .ok v)
    (hs : FsFrame s u) (hl : u.last = s.last) :
    (settleNb v).fs.buf = u.fs.buf ∧ (settleNb v).last = s.last ∧ (NbAgree s → (settleNb v).nb = s.nb) ∧
      FsFrame s (settleNb v) := by
  obtain ⟨-, hlast, -, -, -, -, hbuf, -⟩ := discardBytes_frame h
  exact ⟨hbuf, hlast.trans hl, nb_settleNb_of_last_eq (hlast.trans hl), fsFrame_of_discardBytes h hs⟩

/-- Settles O18: the row runs `discard(105, HUNT)` on the dropped candidate, which answers by R109's two forms of the
limit. -/
theorem collectRejectDiscardsCandidate : Obligations.CollectRejectDiscardsCandidate := by
  intro s b b0 hm hc hr hnot
  have hsel := selectByteOp_of_full b hm hc (by decide) hr
  rw [if_neg hnot] at hsel
  refine ⟨fun hl => ?unlimited, fun n d hl hd => ?limited⟩
  case unlimited =>
    have hdisc := discardBytes_of_no_limit 105 .hunt
      (s := raiseEvent .framingDesync (dropCandidate (beginStep s))) hl
    have hexec := execCollectReject_of_selected hsel hdisc
    exact ⟨_, hexec, fun w hw => (takeWord_of_selected hw hsel).trans hexec, rfl, rfl, rfl, allNone_of_nil rfl, rfl,
      rfl, rfl, nb_settleNb_of_last_eq rfl, ⟨rfl, rfl, rfl, rfl⟩, bytesUnchangedOutside_cand_of_eq rfl rfl⟩
  case limited =>
    have hdisc := discardBytes_of_limit 105 .hunt
      (s := raiseEvent .framingDesync (dropCandidate (beginStep s))) hl hd
    have hexec := execCollectReject_of_selected hsel hdisc
    obtain ⟨hbuf, hlast, hnb, hbuild, hrdIn, hrest⟩ :=
      discardBytes_leaves (s := s) hdisc ⟨rfl, rfl, rfl, rfl⟩ rfl
    refine ⟨_, hexec, fun w hw => (takeWord_of_selected hw hsel).trans hexec, ?_, allNone_of_nil hbuf, hlast, hnb, ?_,
      ⟨hbuild, hrdIn, hrest⟩, bytesUnchangedOutside_cand_of_eq hlast hrdIn⟩
    · split <;> rfl
    · split <;> exact ⟨rfl, rfl, rfl, rfl⟩

/-- Settles O19: the row runs `discard(1, HUNT)`. -/
theorem huntSkipDiscardsByte : Obligations.HuntSkipDiscardsByte := by
  intro s b hm hb
  have hsel := selectByteOp_of_hunt b hm
  rw [if_neg hb] at hsel
  refine ⟨fun hl => ?unlimited, fun n d hl hd => ?limited⟩
  case unlimited =>
    have hexec := execHuntSkip_of_selected hsel (discardBytes_of_no_limit 1 .hunt (s := beginStep s) hl)
    have hfs : { s.fs with mode := some .hunt } = s.fs := by rw [← hm]
    exact ⟨_, hexec, fun w hw => (takeWord_of_selected hw hsel).trans hexec, hfs, rfl, rfl, rfl,
      nb_settleNb_of_last_eq rfl, ⟨rfl, rfl, rfl, rfl⟩, bytesUnchanged_of_eq rfl rfl rfl⟩
  case limited =>
    have hdisc := discardBytes_of_limit 1 .hunt (s := beginStep s) hl hd
    have hexec := execHuntSkip_of_selected hsel hdisc
    obtain ⟨hbuf, hlast, hnb, hbuild, hrdIn, hrest⟩ :=
      discardBytes_leaves (s := s) hdisc ⟨rfl, rfl, rfl, rfl⟩ rfl
    refine ⟨_, hexec, fun w hw => (takeWord_of_selected hw hsel).trans hexec, hbuf, hlast, hnb, ?_,
      ⟨hbuild, hrdIn, hrest⟩, bytesUnchanged_of_eq hbuf (by rw [hlast]) (by rw [hrdIn])⟩
    split <;> exact ⟨rfl, rfl, rfl, rfl, rfl⟩

/-- Settles O20: the row runs `discard(1, COLLECT)` and stores nothing. -/
theorem huntEndStartsCandidate : Obligations.HuntEndStartsCandidate := by
  intro s hm
  have hsel := selectByteOp_of_hunt Config.marker hm
  rw [if_pos rfl] at hsel
  refine ⟨fun hl => ?unlimited, fun n d hl hd => ?limited⟩
  case unlimited =>
    have hexec := execHuntEnd_of_selected hsel (discardBytes_of_no_limit 1 .collect (s := beginStep s) hl)
    exact ⟨_, hexec, (takeWord_of_selected decode_markerWord hsel).trans hexec, rfl, rfl, rfl, rfl, rfl, rfl, rfl,
      nb_settleNb_of_last_eq rfl, ⟨rfl, rfl, rfl, rfl⟩, bytesUnchanged_of_eq rfl rfl rfl⟩
  case limited =>
    have hdisc := discardBytes_of_limit 1 .collect (s := beginStep s) hl hd
    have hexec := execHuntEnd_of_selected hsel hdisc
    obtain ⟨hbuf, hlast, hnb, hbuild, hrdIn, hrest⟩ :=
      discardBytes_leaves (s := s) hdisc ⟨rfl, rfl, rfl, rfl⟩ rfl
    refine ⟨_, hexec, (takeWord_of_selected decode_markerWord hsel).trans hexec, ?_, hbuf, hlast, hnb, ?_,
      ⟨hbuild, hrdIn, hrest⟩, bytesUnchanged_of_eq hbuf (by rw [hlast]) (by rw [hrdIn])⟩
    · split <;> rfl
    · split <;> exact ⟨rfl, rfl, rfl, rfl⟩

/-! ## How long FS hunts -/

/-- Hunting without a limit through bytes that are no marker: the pulses are 0 once a byte has been taken. -/
theorem takeWords_streamOf_of_hunt {bs : List Byte} {s : State} (hl : s.build.huntLimit = none)
    (hm : s.fs.mode = some .hunt) (hbs : ∀ b, b ∈ bs → b ≠ Config.marker) :
    ∃ t, takeWords (streamOf bs) s = some t ∧ t.fs = s.fs ∧ t.last = s.last ∧
      (bs ≠ [] ∨ s.pulses = noPulses → t.pulses = noPulses) := by
  induction bs generalizing s with
  | nil => exact ⟨s, rfl, rfl, rfl, by simp⟩
  | cons b bs ih =>
    obtain ⟨hunlimited, -⟩ := huntSkipDiscardsByte s b hm (hbs b (by simp))
    obtain ⟨u, -, hword, hfs, hlast, hpulses, -, -, ⟨hbuild, -⟩, -⟩ := hunlimited hl
    obtain ⟨t, ht, htfs, htlast, htpulses⟩ := ih (s := u) (by rw [hbuild, hl]) (by rw [hfs, hm])
      fun b' hb' => hbs b' (by simp [hb'])
    refine ⟨t, ?_, htfs.trans hfs, htlast.trans hlast, fun _ => htpulses (.inr hpulses)⟩
    simp only [streamOf, List.map_cons, takeWords, hword (byteWord b) (decode_byteWord b)]
    exact ht

/-- Settles O49: each byte is a HUNT_SKIP (O19). -/
theorem huntHasNoBound : Obligations.HuntHasNoBound := by
  intro bs s hl hm hbs
  obtain ⟨t, ht, hfs, hlast, hpulses⟩ := takeWords_streamOf_of_hunt hl hm hbs
  exact ⟨t, ht, hfs, hlast, fun hne => hpulses (.inl hne)⟩

/-- Settles O50: outside HUNT only a rejection could lead there, and its 105 bytes reach the limit at once. -/
theorem shortLimitNeverHunts : Obligations.ShortLimitNeverHunts := by
  intro w s t n hl hn hm hw
  rcases takeWord_next_cases hw with ⟨-, rfl⟩ | ⟨-, rfl⟩ | ⟨-, rfl⟩ | ⟨b, c, -, -, -, -, rfl⟩ |
    ⟨c, bytes, -, -, -, -, -, -, rfl⟩ | ⟨b, c, b0, u, -, -, -, -, -, -, hu, rfl⟩ | ⟨b, u, -, hhunt, -⟩ |
    ⟨u, -, hhunt, -⟩
  · simp
  · simp
  · exact hm
  · exact hm
  · exact hm
  · rcases discardBytes_ok_cases hu with ⟨hnone, -⟩ | ⟨-, rfl⟩ | ⟨n', d, hl', hlt, -⟩
    · exact absurd (hl.symm.trans hnone) (by simp)
    · simp
    · have hsame : n = n' := Option.some.inj (hl.symm.trans hl')
      omega
  · exact absurd hhunt hm
  · exact absurd hhunt hm

end Sys2Proof.Machine
end

section
/-! PROOFS, 40_frame_sync.md, R110 to R115: FS against the reference reader. An automaton over bytes stands between
them: FS's steps follow it, and so does the reader's consumption of a byte sequence. -/
namespace Sys2Proof.Machine

/-! ## FS as an automaton over bytes -/

/-- Where FS stands in a byte stream: the bytes of the candidate it holds, or hunting. -/
inductive FsPhase where
  | collecting (held : List Byte)
  | hunting

/-- The phase after a byte, and the frame delivered with it (R100 without a limit). -/
def FsPhase.take (b : Byte) : FsPhase → FsPhase × Option (List Byte)
  | .collecting held =>
    if held.length < 104 then (.collecting (held ++ [b]), none)
    else if held[0]? = some Config.marker ∧ b = Config.marker then (.collecting [], some (held ++ [b]))
    else (.hunting, none)
  | .hunting => if b = Config.marker then (.collecting [], none) else (.hunting, none)

/-- The frames delivered over a byte sequence, each with the number of bytes so far, and the last phase; `n` bytes came
before. -/
def FsPhase.run : List Byte → Nat → FsPhase → List (Nat × List Byte) × FsPhase
  | [], _, p => ([], p)
  | b :: bs, n, p =>
    (((p.take b).2.map (n + 1, ·)).toList ++ (run bs (n + 1) (p.take b).1).1, (run bs (n + 1) (p.take b).1).2)

theorem FsPhase.take_collecting_of_lt {held : List Byte} (b : Byte) (h : held.length < 104) :
    (FsPhase.collecting held).take b = (.collecting (held ++ [b]), none) := by
  rw [FsPhase.take, if_pos h]

theorem FsPhase.take_collecting_of_full {held : List Byte} (b : Byte) (h : held.length = 104) :
    (FsPhase.collecting held).take b =
      if held[0]? = some Config.marker ∧ b = Config.marker then (.collecting [], some (held ++ [b]))
      else (.hunting, none) := by
  rw [FsPhase.take, if_neg (by omega)]

theorem FsPhase.run_cons {b : Byte} {n : Nat} {p q : FsPhase} {o : Option (List Byte)} (bs : List Byte)
    (h : p.take b = (q, o)) :
    p.run (b :: bs) n = ((o.map (n + 1, ·)).toList ++ (q.run bs (n + 1)).1, (q.run bs (n + 1)).2) := by
  rw [FsPhase.run, h]

/-! ## FS's registers in a phase -/

/-- `fs_buf` holds these bytes, from index 0, and `fs_count` their number. -/
structure HoldsCandidate (s : State) (held : List Byte) : Prop where
  length_le : held.length ≤ 104
  count : s.fs.count = some (BitVec.ofNat 7 held.length)
  read : ∀ i, s.fs.buf.read i = held[i]?

/-- FS's registers are in this phase. -/
def InPhase (s : State) : FsPhase → Prop
  | .collecting held => s.fs.mode = some .collect ∧ HoldsCandidate s held
  | .hunting => s.fs.mode = some .hunt ∧ HoldsCandidate s []

/-- What the step that led to the state delivered: `last_frame` where there is a frame, no `frame_done` where none. -/
def Delivered (t : State) : Option (List Byte) → Prop
  | none => t.pulses.frameDone = false
  | some f => t.pulses.frameDone = true ∧ readBytes .frame t 0 105 = .ok f

theorem holdsCandidate_nil {s : State} (hc : s.fs.count = some 0#7) (hb : s.fs.buf = []) : HoldsCandidate s [] where
  length_le := by simp
  count := hc
  read i := by simp [hb]

theorem holdsCandidate_of_eq {s t : State} {held : List Byte} (hc : t.fs.count = s.fs.count)
    (hb : t.fs.buf = s.fs.buf) (h : HoldsCandidate s held) : HoldsCandidate t held where
  length_le := h.length_le
  count := by rw [hc, h.count]
  read := by rw [hb]; exact h.read

theorem inPhase_of_atCandidateStart {s : State} (h : AtCandidateStart s) : InPhase s (.collecting []) := by
  obtain ⟨hm, hc, hb⟩ := h
  exact ⟨hm, holdsCandidate_nil hc hb⟩

theorem inPhase_of_fs_eq {s t : State} {p : FsPhase} (hfs : t.fs = s.fs) (h : InPhase s p) : InPhase t p := by
  cases p with
  | collecting | hunting =>
    obtain ⟨hm, hheld⟩ := h
    exact ⟨by rw [hfs, hm], holdsCandidate_of_eq (by rw [hfs]) (by rw [hfs]) hheld⟩

/-- The entry of the candidate that a row reads. -/
theorem readByte_cand_of_holds {s : State} {held : List Byte} {i : Nat} {b : Byte} (h : HoldsCandidate s held)
    (hb : held[i]? = some b) : readByte .cand i s = .ok b := by
  have hlen := h.length_le
  obtain ⟨hi, -⟩ := List.getElem?_eq_some_iff.mp hb
  exact readByte_eq_ok.mpr ⟨by simp only [spaceSize_cand]; omega, by rw [spaceOf_cand, h.read, hb]⟩

/-- A full candidate, read as a block. -/
theorem readBytes_cand_of_holds {s : State} {held : List Byte} (h : HoldsCandidate s held) (hfull : held.length = 104) :
    readBytes .cand s 0 104 = .ok held := by
  refine readBytes_eq_ok.mpr ⟨hfull, fun j hj => readByte_cand_of_holds h ?_⟩
  simp [hfull, hj]

theorem holdsCandidate_storeCandidate {s : State} {held : List Byte} (b : Byte) (h : HoldsCandidate s held)
    (hlt : held.length < 104) :
    HoldsCandidate (storeCandidate (BitVec.ofNat 7 held.length) b s) (held ++ [b]) := by
  have hidx : (BitVec.ofNat 7 held.length).toNat = held.length := by rw [BitVec.toNat_ofNat]; omega
  refine ⟨by simpa using hlt, by simp [BitVec.ofNat_add], fun i => ?_⟩
  rw [storeCandidate_fs, read_write, hidx]
  split
  · simp [*]
  · rw [h.read]
    rcases Nat.lt_or_gt_of_ne ‹i ≠ held.length› with hi | hi
    · rw [List.getElem?_append_left hi]
    · rw [List.getElem?_eq_none (by omega), List.getElem?_eq_none (by simp; omega)]

/-! ## FS's steps follow the automaton -/

/-- COLLECT_STORE, for any limit. -/
theorem takeWord_store {s : State} {held : List Byte} {w : StreamWord} {b : Byte}
    (hp : InPhase s (.collecting held)) (hlt : held.length < 104) (hw : decode w = .byte b) :
    ∃ t, takeWord w s = .next t ∧ InPhase t (.collecting (held ++ [b])) ∧ Delivered t none := by
  obtain ⟨hm, hheld⟩ := hp
  have hsel := selectByteOp_of_count_lt b hm hheld.count (by rw [BitVec.toNat_ofNat]; omega)
  refine ⟨_, (takeWord_of_selected hw hsel).trans (execCollectStore_of_selected hsel hheld.count), ⟨hm, ?_⟩, rfl⟩
  exact holdsCandidate_of_eq (s := storeCandidate _ b s) rfl rfl (holdsCandidate_storeCandidate b hheld hlt)

/-- The selection at the end of a candidate. -/
theorem selectByteOp_of_holds_full {s : State} {held : List Byte} (b : Byte) (hp : InPhase s (.collecting held))
    (hfull : held.length = 104) :
    selectByteOp b s =
      .ok (if held[0]? = some Config.marker ∧ b = Config.marker then .collectAccept else .collectReject) := by
  obtain ⟨hm, hheld⟩ := hp
  have hfirst : held[0]? = some held[0] := List.getElem?_eq_getElem (by omega)
  rw [selectByteOp_of_full b hm hheld.count (by rw [hfull]; decide) (readByte_cand_of_holds hheld hfirst)]
  simp only [hfirst, Option.some.injEq]

/-- COLLECT_ACCEPT, for any limit. -/
theorem takeWord_accept {s : State} {held : List Byte} {w : StreamWord} {b : Byte}
    (hp : InPhase s (.collecting held)) (hfull : held.length = 104)
    (hmk : held[0]? = some Config.marker ∧ b = Config.marker) (hw : decode w = .byte b) :
    ∃ t, takeWord w s = .next t ∧ AtCandidateStart t ∧ t.last.valid = some true ∧ Delivered t (some (held ++ [b])) := by
  have hsel := selectByteOp_of_holds_full b hp hfull
  rw [if_pos hmk] at hsel
  obtain ⟨hm, hheld⟩ := hp
  refine ⟨_, (takeWord_of_selected hw hsel).trans (execCollectAccept_of_selected hsel
    (readBytes_cand_of_holds hheld hfull)), ⟨hm, rfl, rfl⟩, rfl, rfl, ?_⟩
  exact readBytes_frame_of_written rfl (by simp [hfull])

/-- COLLECT_REJECT without a limit. -/
theorem takeWord_reject {s : State} {held : List Byte} {w : StreamWord} {b : Byte} (hl : s.build.huntLimit = none)
    (hp : InPhase s (.collecting held)) (hfull : held.length = 104)
    (hmk : ¬(held[0]? = some Config.marker ∧ b = Config.marker)) (hw : decode w = .byte b) :
    ∃ t, takeWord w s = .next t ∧ InPhase t .hunting ∧ Delivered t none := by
  have hsel := selectByteOp_of_holds_full b hp hfull
  rw [if_neg hmk] at hsel
  have hdisc := discardBytes_of_no_limit 105 .hunt (s := raiseEvent .framingDesync (dropCandidate (beginStep s))) hl
  exact ⟨_, (takeWord_of_selected hw hsel).trans (execCollectReject_of_selected hsel hdisc),
    ⟨rfl, holdsCandidate_nil rfl rfl⟩, rfl⟩

/-- HUNT_SKIP and HUNT_END without a limit. -/
theorem takeWord_hunt {s : State} {w : StreamWord} {b : Byte} (hl : s.build.huntLimit = none)
    (hp : InPhase s .hunting) (hw : decode w = .byte b) :
    ∃ t, takeWord w s = .next t ∧ InPhase t (FsPhase.hunting.take b).1 ∧ Delivered t (FsPhase.hunting.take b).2 := by
  obtain ⟨hm, hheld⟩ := hp
  have hsel := selectByteOp_of_hunt b hm
  by_cases hb : b = Config.marker
  · have hdisc := discardBytes_of_no_limit 1 .collect (s := beginStep s) hl
    rw [if_pos hb] at hsel
    rw [FsPhase.take, if_pos hb]
    exact ⟨_, (takeWord_of_selected hw hsel).trans (execHuntEnd_of_selected hsel hdisc),
      ⟨rfl, holdsCandidate_of_eq (s := s) rfl rfl hheld⟩, rfl⟩
  · have hdisc := discardBytes_of_no_limit 1 .hunt (s := beginStep s) hl
    rw [if_neg hb] at hsel
    rw [FsPhase.take, if_neg hb]
    exact ⟨_, (takeWord_of_selected hw hsel).trans (execHuntSkip_of_selected hsel hdisc),
      ⟨rfl, holdsCandidate_of_eq (s := s) rfl rfl hheld⟩, rfl⟩

/-- Without a limit a BYTE word takes FS where the automaton goes. -/
theorem takeWord_follows_phase {s : State} {p : FsPhase} {w : StreamWord} {b : Byte} (hl : s.build.huntLimit = none)
    (hp : InPhase s p) (hw : decode w = .byte b) :
    ∃ t, takeWord w s = .next t ∧ InPhase t (p.take b).1 ∧ Delivered t (p.take b).2 := by
  cases p with
  | hunting => exact takeWord_hunt hl hp hw
  | collecting held =>
    have hlen : held.length ≤ 104 := hp.2.length_le
    rcases Nat.lt_or_eq_of_le hlen with hlt | hfull
    · rw [FsPhase.take_collecting_of_lt b hlt]
      exact takeWord_store hp hlt hw
    · rw [FsPhase.take_collecting_of_full b hfull]
      split
      · obtain ⟨t, ht, hstart, -, hdel⟩ := takeWord_accept hp hfull ‹_› hw
        exact ⟨t, ht, inPhase_of_atCandidateStart hstart, hdel⟩
      · exact takeWord_reject hl hp hfull ‹_› hw

/-! ## The trace of a run -/

theorem bytesOf_cons_of_byte {w : StreamWord} {b : Byte} (ws : List StreamWord) (h : decode w = .byte b) :
    bytesOf (w :: ws) = b :: bytesOf ws := by
  rw [bytesOf, h]

theorem bytesOf_cons_of_idle {w : StreamWord} (ws : List StreamWord) (h : decode w = .idle) :
    bytesOf (w :: ws) = bytesOf ws := by
  rw [bytesOf, h]

theorem bytesOf_streamOf (bs : List Byte) : bytesOf (streamOf bs) = bs := bytesOf_byteWords bs

/-- One step of a trace, put before the trace from the state it leads to. -/
theorem frameTrace_cons {w : StreamWord} {ws : List StreamWord} {n : Nat} {s t u : State} {o : Option (List Byte)}
    {out : List (Nat × List Byte)} (hw : takeWord w s = .next t) (ho : Delivered t o)
    (hrest : frameTrace ws (n + (bytesOf [w]).length) t = some (out, u)) :
    frameTrace (w :: ws) n s = some ((o.map (n + (bytesOf [w]).length, ·)).toList ++ out, u) := by
  cases o with
  | none =>
    have hdone : t.pulses.frameDone = false := ho
    simp [frameTrace, hw, hrest, hdone]
  | some f =>
    obtain ⟨hdone, hread⟩ := ho
    simp [frameTrace, hw, hrest, hdone, hread]

theorem frameTrace_cons_byte {w : StreamWord} {b : Byte} {ws : List StreamWord} {n : Nat} {s t u : State}
    {o : Option (List Byte)} {out : List (Nat × List Byte)} (hb : decode w = .byte b) (hw : takeWord w s = .next t)
    (ho : Delivered t o) (hrest : frameTrace ws (n + 1) t = some (out, u)) :
    frameTrace (w :: ws) n s = some ((o.map (n + 1, ·)).toList ++ out, u) := by
  have hone : (bytesOf [w]).length = 1 := by rw [bytesOf_cons_of_byte [] hb]; rfl
  rw [← hone] at hrest ⊢
  exact frameTrace_cons hw ho hrest

theorem frameTrace_cons_idle {w : StreamWord} {ws : List StreamWord} {n : Nat} {s u : State}
    {out : List (Nat × List Byte)} (hi : decode w = .idle)
    (hrest : frameTrace ws n (settleNb (beginStep s)) = some (out, u)) :
    frameTrace (w :: ws) n s = some (out, u) := by
  have hzero : n + (bytesOf [w]).length = n := by rw [bytesOf_cons_of_idle [] hi]; rfl
  exact frameTrace_cons (o := none) (takeWord_of_decode hi s) rfl (by rw [hzero]; exact hrest)

/-- Without a limit, on BYTE and IDLE words, FS delivers what the automaton delivers over the bytes, and ends in its
phase. -/
theorem frameTrace_eq_run {ws : List StreamWord} {n : Nat} {s : State} {p : FsPhase} (hl : s.build.huntLimit = none)
    (hp : InPhase s p) (hws : ∀ w, w ∈ ws → decode w = .idle ∨ ∃ b, decode w = .byte b) :
    ∃ u, frameTrace ws n s = some ((p.run (bytesOf ws) n).1, u) ∧ InPhase u (p.run (bytesOf ws) n).2 := by
  induction ws generalizing n s p with
  | nil => exact ⟨s, rfl, hp⟩
  | cons w ws ih =>
    have hrest : ∀ w', w' ∈ ws → decode w' = .idle ∨ ∃ b, decode w' = .byte b := fun w' hw' => hws w' (by simp [hw'])
    rcases hws w (by simp) with hi | ⟨b, hb⟩
    · obtain ⟨u, hu, hphase⟩ := ih (n := n) (s := settleNb (beginStep s)) hl (inPhase_of_fs_eq (s := s) rfl hp) hrest
      rw [bytesOf_cons_of_idle ws hi]
      exact ⟨u, frameTrace_cons_idle hi hu, hphase⟩
    · obtain ⟨t, ht, hphase, hdel⟩ := takeWord_follows_phase hl hp hb
      obtain ⟨hbuild, -⟩ := takeWord_fsFrame ht
      obtain ⟨u, hu, hend⟩ := ih (n := n + 1) (by rw [hbuild, hl]) hphase hrest
      rw [bytesOf_cons_of_byte ws hb, FsPhase.run_cons (bytesOf ws) rfl]
      exact ⟨u, frameTrace_cons_byte hb ht hdel hu, hend⟩

/-! ## The reference reader (R110) -/

theorem length_lt_of_readUntil {bs rest : List Byte} (h : readUntil bs = some rest) : rest.length < bs.length := by
  induction bs with
  | nil => cases h
  | cons b bs ih =>
    rw [readUntil] at h
    split at h
    · cases h
      simp
    · have := ih h
      simp only [List.length_cons]
      omega

theorem readFrame_of_short {bs : List Byte} (k : Nat) (h : bs.length < 105) :
    readFrame (k + 1) bs = .error (.inReadExact bs.length) := by
  rw [readFrame, Config.frameLen, if_pos h]

theorem readFrame_of_accepted {f : List Byte} (k : Nat) (rest : List Byte) (hf : f.length = 105)
    (hmk : f[0]? = some Config.marker ∧ f[104]? = some Config.marker) :
    readFrame (k + 1) (f ++ rest) = .ok (f, rest) := by
  obtain ⟨hfirst, hlast⟩ := hmk
  have hfirst' : (f ++ rest)[0]? = some Config.marker := by rw [List.getElem?_append_left (by omega), hfirst]
  have hlast' : (f ++ rest)[104]? = some Config.marker := by rw [List.getElem?_append_left (by omega), hlast]
  rw [readFrame, if_neg (by simp [hf, Config.frameLen]), if_pos ⟨hfirst', hlast'⟩]
  simp [Config.frameLen, List.take_left' hf, List.drop_left' hf]

theorem readFrame_of_rejected {f : List Byte} (k : Nat) (rest : List Byte) (hf : f.length = 105)
    (hmk : ¬(f[0]? = some Config.marker ∧ f[104]? = some Config.marker)) :
    readFrame (k + 1) (f ++ rest) = (readUntil rest).elim (.error .inReadUntil) (readFrame k) := by
  have hfirst : (f ++ rest)[0]? = f[0]? := List.getElem?_append_left (by omega)
  have hlast : (f ++ rest)[Config.frameLen - 1]? = f[104]? := List.getElem?_append_left (by rw [hf]; decide)
  rw [readFrame, if_neg (by simp [hf, Config.frameLen]), hfirst, hlast, if_neg hmk, Config.frameLen,
    List.drop_left' hf]
  cases readUntil rest <;> rfl

/-- A sequence of 105 bytes or more is its first 105 and the rest. -/
theorem exists_append_of_length_ge {bs : List Byte} (h : 105 ≤ bs.length) :
    ∃ f rest, bs = f ++ rest ∧ f.length = 105 :=
  ⟨bs.take 105, bs.drop 105, (List.take_append_drop 105 bs).symm, by simpa using h⟩

/-- The fuel of `readFrame` plays no part once it exceeds the length. -/
theorem readFrame_fuel_irrelevant {k k' : Nat} {bs : List Byte} (h : bs.length < k) (h' : bs.length < k') :
    readFrame k bs = readFrame k' bs := by
  induction k generalizing k' bs with
  | zero => omega
  | succ k ih =>
    obtain ⟨k', rfl⟩ : ∃ j, k' = j + 1 := ⟨k' - 1, by omega⟩
    by_cases hshort : bs.length < 105
    · rw [readFrame_of_short k hshort, readFrame_of_short k' hshort]
    · obtain ⟨f, rest, rfl, hf⟩ := exists_append_of_length_ge (Nat.le_of_not_lt hshort)
      by_cases hmk : f[0]? = some Config.marker ∧ f[104]? = some Config.marker
      · rw [readFrame_of_accepted k rest hf hmk, readFrame_of_accepted k' rest hf hmk]
      · rw [readFrame_of_rejected k rest hf hmk, readFrame_of_rejected k' rest hf hmk]
        cases hr : readUntil rest with
        | none => rfl
        | some r =>
          have hlen := length_lt_of_readUntil hr
          rw [List.length_append] at h h'
          exact ih (by omega) (by omega)

theorem length_le_of_readFrame {k : Nat} {bs f rest : List Byte} (h : readFrame k bs = .ok (f, rest)) :
    rest.length ≤ bs.length := by
  induction k generalizing bs with
  | zero => cases h
  | succ k ih =>
    by_cases hshort : bs.length < 105
    · rw [readFrame_of_short k hshort] at h
      cases h
    · obtain ⟨g, tail, rfl, hg⟩ := exists_append_of_length_ge (Nat.le_of_not_lt hshort)
      rw [List.length_append]
      by_cases hmk : g[0]? = some Config.marker ∧ g[104]? = some Config.marker
      · rw [readFrame_of_accepted k tail hg hmk] at h
        cases h
        omega
      · rw [readFrame_of_rejected k tail hg hmk] at h
        cases hr : readUntil tail with
        | none => rw [hr] at h; cases h
        | some r =>
          rw [hr] at h
          have hle := ih h
          have hlt := length_lt_of_readUntil hr
          omega

/-! ## The reader's frames (R111), a candidate at a time -/

/-- What the reader gives where it stands in `read_until`, after `m` bytes. -/
def huntRef (fuel m : Nat) (bs : List Byte) : List (Nat × List Byte) × ReadFailure :=
  (readUntil bs).elim ([], .inReadUntil) fun rest => framesRefFrom fuel (m + (bs.length - rest.length)) rest

theorem huntRef_nil (fuel m : Nat) : huntRef fuel m [] = ([], .inReadUntil) := rfl

theorem huntRef_marker (fuel m : Nat) (bs : List Byte) :
    huntRef fuel m (Config.marker :: bs) = framesRefFrom fuel (m + 1) bs := by
  simp [huntRef, readUntil]

theorem huntRef_skip {b : Byte} (fuel m : Nat) (bs : List Byte) (hb : b ≠ Config.marker) :
    huntRef fuel m (b :: bs) = huntRef fuel (m + 1) bs := by
  simp only [huntRef, readUntil, if_neg hb]
  cases hr : readUntil bs with
  | none => rfl
  | some r =>
    have hlt := length_lt_of_readUntil hr
    have hcount : m + ((b :: bs).length - r.length) = m + 1 + (bs.length - r.length) := by
      rw [List.length_cons]
      omega
    exact congrArg (framesRefFrom fuel · r) hcount

theorem framesRefFrom_of_short {bs : List Byte} (fuel m : Nat) (h : bs.length < 105) :
    framesRefFrom (fuel + 1) m bs = ([], .inReadExact bs.length) := by
  rw [framesRefFrom, readFrame_of_short _ h]

theorem framesRefFrom_of_accepted {f : List Byte} (fuel m : Nat) (rest : List Byte) (hf : f.length = 105)
    (hmk : f[0]? = some Config.marker ∧ f[104]? = some Config.marker) :
    framesRefFrom (fuel + 1) m (f ++ rest) =
      ((m + 105, f) :: (framesRefFrom fuel (m + 105) rest).1, (framesRefFrom fuel (m + 105) rest).2) := by
  have hcount : (f ++ rest).length - rest.length = 105 := by rw [List.length_append]; omega
  rw [framesRefFrom, readFrame_of_accepted _ rest hf hmk]
  simp only [hcount]

/-- Two calls that read the same and have the same end give the same frames. -/
theorem framesRefFrom_congr {m m' : Nat} {bs bs' : List Byte} (fuel : Nat)
    (hread : readFrame (bs.length + 1) bs = readFrame (bs'.length + 1) bs') (hm : m + bs.length = m' + bs'.length)
    (hle : bs'.length ≤ bs.length) : framesRefFrom (fuel + 1) m bs = framesRefFrom (fuel + 1) m' bs' := by
  rw [framesRefFrom, framesRefFrom, hread]
  cases h : readFrame (bs'.length + 1) bs' with
  | error e => rfl
  | ok fr =>
    obtain ⟨f, rest⟩ := fr
    have hrest := length_le_of_readFrame h
    have hcount : m + (bs.length - rest.length) = m' + (bs'.length - rest.length) := by omega
    simp only [hcount]

/-- A rejected candidate: the same call goes on in `read_until`. -/
theorem framesRefFrom_of_rejected {f : List Byte} (fuel m : Nat) (rest : List Byte) (hf : f.length = 105)
    (hmk : ¬(f[0]? = some Config.marker ∧ f[104]? = some Config.marker)) :
    framesRefFrom (fuel + 1) m (f ++ rest) = huntRef (fuel + 1) (m + 105) rest := by
  have hread := readFrame_of_rejected (f ++ rest).length rest hf hmk
  unfold huntRef
  cases hr : readUntil rest with
  | none =>
    rw [hr] at hread
    rw [framesRefFrom, hread]
    rfl
  | some r =>
    rw [hr] at hread
    have hlt := length_lt_of_readUntil hr
    have hlen : (f ++ rest).length = 105 + rest.length := by rw [List.length_append, hf]
    exact framesRefFrom_congr fuel (hread.trans (readFrame_fuel_irrelevant (by omega) (by omega)))
      (by omega) (by omega)

/-! ## The reader follows the automaton -/

/-- Where the reader's last call fails, as R111 (c) names it for a phase. -/
def FsPhase.failure : FsPhase → ReadFailure
  | .collecting held => .inReadExact held.length
  | .hunting => .inReadUntil

/-- The frames of a run of the automaton with the failure its last phase stands for. -/
def FsPhase.outcome (bs : List Byte) (n : Nat) (p : FsPhase) : List (Nat × List Byte) × ReadFailure :=
  ((p.run bs n).1, (p.run bs n).2.failure)

theorem FsPhase.outcome_cons {b : Byte} {n : Nat} {p q : FsPhase} {o : Option (List Byte)} (bs : List Byte)
    (h : p.take b = (q, o)) :
    p.outcome (b :: bs) n = ((o.map (n + 1, ·)).toList ++ (q.outcome bs (n + 1)).1, (q.outcome bs (n + 1)).2) := by
  rw [FsPhase.outcome, FsPhase.run_cons bs h]
  rfl

/-- A marker test of the automaton at the end of a candidate is the reader's test of the 105 bytes. -/
theorem markers_append_iff {held : List Byte} {b : Byte} (hfull : held.length = 104) :
    ((held ++ [b])[0]? = some Config.marker ∧ (held ++ [b])[104]? = some Config.marker) ↔
      held[0]? = some Config.marker ∧ b = Config.marker := by
  rw [List.getElem?_append_left (by omega), List.getElem?_append_right (by omega), hfull]
  simp

/-- The automaton over the bytes to come gives what the reader gives over the candidate held and those bytes; while
hunting, what `read_until` gives over them. -/
theorem FsPhase.outcome_eq_reference (bs : List Byte) :
    (∀ held m fuel, held.length ≤ 104 → held.length + bs.length < fuel →
      (FsPhase.collecting held).outcome bs (m + held.length) = framesRefFrom fuel m (held ++ bs)) ∧
    (∀ m fuel, bs.length < fuel → FsPhase.hunting.outcome bs m = huntRef fuel m bs) := by
  induction bs with
  | nil =>
    refine ⟨fun held m fuel hlen hfuel => ?_, fun m fuel _ => rfl⟩
    obtain ⟨fuel, rfl⟩ : ∃ j, fuel = j + 1 := ⟨fuel - 1, by omega⟩
    rw [List.append_nil, framesRefFrom_of_short fuel m (by omega)]
    rfl
  | cons b bs ih =>
    obtain ⟨ihCollect, ihHunt⟩ := ih
    refine ⟨fun held m fuel hlen hfuel => ?collect, fun m fuel hfuel => ?hunt⟩
    case collect =>
      rw [List.length_cons] at hfuel
      obtain ⟨fuel, rfl⟩ : ∃ j, fuel = j + 1 := ⟨fuel - 1, by omega⟩
      have hnew : (held ++ [b]).length = held.length + 1 := by simp
      have hwhole : held ++ b :: bs = (held ++ [b]) ++ bs := by simp
      rw [hwhole]
      rcases Nat.lt_or_eq_of_le hlen with hlt | hfull
      · rw [FsPhase.outcome_cons bs (FsPhase.take_collecting_of_lt b hlt), Nat.add_assoc, ← hnew]
        exact ihCollect (held ++ [b]) m (fuel + 1) (by omega) (by omega)
      · have htake := FsPhase.take_collecting_of_full b hfull
        by_cases hmk : held[0]? = some Config.marker ∧ b = Config.marker
        · rw [if_pos hmk] at htake
          have hnext : (FsPhase.collecting []).outcome bs (m + 105) = framesRefFrom fuel (m + 105) bs :=
            ihCollect [] (m + 105) fuel (by simp) (by simp; omega)
          rw [FsPhase.outcome_cons bs htake,
            framesRefFrom_of_accepted fuel m bs (by omega) ((markers_append_iff hfull).mpr hmk), hfull,
            Nat.add_assoc, hnext]
          rfl
        · rw [if_neg hmk] at htake
          rw [FsPhase.outcome_cons bs htake,
            framesRefFrom_of_rejected fuel m bs (by omega) (by rwa [markers_append_iff hfull]), hfull, Nat.add_assoc]
          exact ihHunt (m + 105) (fuel + 1) (by omega)
    case hunt =>
      rw [List.length_cons] at hfuel
      by_cases hb : b = Config.marker
      · rw [FsPhase.outcome_cons bs (by rw [FsPhase.take, if_pos hb]), hb, huntRef_marker]
        exact ihCollect [] (m + 1) fuel (by simp) (by simp; omega)
      · rw [FsPhase.outcome_cons bs (by rw [FsPhase.take, if_neg hb]), huntRef_skip fuel m bs hb]
        exact ihHunt (m + 1) fuel (by omega)

end Sys2Proof.Machine
end

section
/-! PROOFS, 40_frame_sync.md, R111 to R115: FS delivers the reference reader's frames; a frame between two markers is
delivered whole; what entering a stream late costs. -/
namespace Sys2Proof.Machine

/-! ## FS delivers the reader's frames (R111) -/

/-- FS stands where the reader's last call failed (R111 (c)). -/
def StandsAtFailure (u : State) : ReadFailure → Prop
  | .inReadExact c => u.fs.mode = some .collect ∧ ∃ k, u.fs.count = some k ∧ k.toNat = c
  | .inReadUntil => u.fs.mode = some .hunt

theorem standsAtFailure_of_inPhase {u : State} {p : FsPhase} (h : InPhase u p) : StandsAtFailure u p.failure := by
  cases p with
  | hunting =>
    obtain ⟨hm, -⟩ := h
    exact hm
  | collecting held =>
    obtain ⟨hm, hheld⟩ := h
    have hlen := hheld.length_le
    exact ⟨hm, _, hheld.count, by rw [BitVec.toNat_ofNat]; omega⟩

/-- From the start of a candidate, without a limit, FS and the reader agree on any BYTE and IDLE words. -/
theorem frameTrace_eq_framesRef {ws : List StreamWord} {s : State} (hl : s.build.huntLimit = none)
    (hs : AtCandidateStart s) (hws : ∀ w, w ∈ ws → decode w = .idle ∨ ∃ b, decode w = .byte b) :
    ∃ u, frameTrace ws 0 s = some ((framesRef (bytesOf ws)).1, u) ∧
      StandsAtFailure u (framesRef (bytesOf ws)).2 := by
  obtain ⟨u, hu, hphase⟩ := frameTrace_eq_run (n := 0) hl (inPhase_of_atCandidateStart hs) hws
  have href : (FsPhase.collecting []).outcome (bytesOf ws) 0 = framesRef (bytesOf ws) :=
    (FsPhase.outcome_eq_reference (bytesOf ws)).1 [] 0 _ (by simp) (by simp)
  rw [← href]
  exact ⟨u, hu, standsAtFailure_of_inPhase hphase⟩

theorem exists_execReset_atCandidateStart (s : State) :
    ∃ t, exec .reset s = .next t ∧ t.build = s.build ∧ AtCandidateStart t :=
  ⟨_, rfl, rfl, rfl, rfl, rfl⟩

/-- Settles O52: RESET starts a candidate, and from there FS and the reader follow one automaton. -/
theorem fsMatchesReferenceReader : Obligations.FsMatchesReferenceReader := by
  intro ws s hl hws
  obtain ⟨t, hreset, hbuild, hstart⟩ := exists_execReset_atCandidateStart s
  obtain ⟨u, hu, hstands⟩ := frameTrace_eq_framesRef (by rw [hbuild, hl]) hstart hws
  refine ⟨t, u, hreset, hu, ?_⟩
  generalize (framesRef (bytesOf ws)).2 = e at hstands
  cases e <;> exact hstands

/-! ## A frame between two markers (R113) -/

theorem streamOf_cons (b : Byte) (bs : List Byte) : streamOf (b :: bs) = byteWord b :: streamOf bs := rfl

/-- While a candidate lacks its last byte, bytes are stored and the rest of the trace is that from the longer
candidate, for any limit. -/
theorem frameTrace_store {bs : List Byte} {ws : List StreamWord} {held : List Byte} {n : Nat} {s : State}
    (hp : InPhase s (.collecting held)) (hlen : held.length + bs.length ≤ 104) :
    ∃ t, InPhase t (.collecting (held ++ bs)) ∧
      ∀ out u, frameTrace ws (n + bs.length) t = some (out, u) →
        frameTrace (streamOf bs ++ ws) n s = some (out, u) := by
  induction bs generalizing held n s with
  | nil => exact ⟨s, by simpa using hp, fun out u h => h⟩
  | cons b bs ih =>
    rw [List.length_cons] at hlen
    obtain ⟨v, hv, hphase, hdel⟩ := takeWord_store hp (by omega) (decode_byteWord b)
    obtain ⟨t, ht, htrace⟩ := ih (n := n + 1) hphase (by simp; omega)
    refine ⟨t, by simpa using ht, fun out u h => ?_⟩
    rw [streamOf_cons, List.cons_append]
    exact frameTrace_cons_byte (o := none) (decode_byteWord b) hv hdel
      (htrace out u (by rwa [List.length_cons, Nat.add_comm bs.length 1, ← Nat.add_assoc] at h))

/-- A list of 105 bytes is its first 104 and the last. -/
theorem eq_take_append_last {f : List Byte} {b : Byte} (hf : f.length = 105) (hlast : f[104]? = some b) :
    f = f.take 104 ++ [b] := by
  obtain ⟨hlt, hget⟩ := List.getElem?_eq_some_iff.mp hlast
  rw [← hget, List.take_append_getElem, List.take_of_length_le (by omega)]

/-- Settles O51: 104 bytes are stored and the last one accepts them. -/
theorem alignedFrameIsAcceptedWhole : Obligations.AlignedFrameIsAcceptedWhole := by
  intro f s hs hf hfirst hlast
  have hsplit := eq_take_append_last hf hlast
  have hfull : (f.take 104).length = 104 := by simp [hf]
  have hmk : (f.take 104)[0]? = some Config.marker := by rw [List.getElem?_take_of_lt (by omega), hfirst]
  obtain ⟨t, hphase, htrace⟩ := frameTrace_store (bs := f.take 104) (ws := streamOf [Config.marker]) (n := 0)
    (inPhase_of_atCandidateStart hs) (by simp [hf])
  rw [List.nil_append] at hphase
  obtain ⟨u, hu, hstart, hvalid, hdel⟩ :=
    takeWord_accept hphase hfull ⟨hmk, rfl⟩ (decode_byteWord Config.marker)
  have hrun : frameTrace (streamOf (f.take 104 ++ [Config.marker])) 0 s =
      some ([(105, f.take 104 ++ [Config.marker])], u) := by
    rw [streamOf, List.map_append]
    refine htrace _ u ?_
    have hone := frameTrace_cons_byte (ws := []) (n := 0 + (f.take 104).length)
      (decode_byteWord Config.marker) hu hdel rfl
    rw [hfull] at hone ⊢
    exact hone
  rw [← hsplit] at hrun
  exact ⟨u, hrun, hstart, hvalid⟩

/-! ## Entering a stream late (R115) -/

/-- Over a byte stream FS delivers the frames the reader was computed to give, and stands where it fails. -/
theorem frameTrace_of_framesRef {s : State} {bs : List Byte} {out : List (Nat × List Byte)} {e : ReadFailure}
    (hl : s.build.huntLimit = none) (hs : AtCandidateStart s) (href : framesRef bs = (out, e)) :
    ∃ u, frameTrace (streamOf bs) 0 s = some (out, u) ∧ StandsAtFailure u e := by
  have h := frameTrace_eq_framesRef (ws := streamOf bs) hl hs fun w hw => by
    obtain ⟨b, -, rfl⟩ := List.mem_map.mp hw
    exact .inr ⟨b, decode_byteWord b⟩
  rwa [bytesOf_streamOf, href] at h

/-- `read_until` passes over bytes that are no marker. -/
theorem huntRef_append_of_no_marker {xs : List Byte} (fuel m : Nat) (ys : List Byte)
    (hxs : ∀ x, x ∈ xs → x ≠ Config.marker) : huntRef fuel m (xs ++ ys) = huntRef fuel (m + xs.length) ys := by
  induction xs generalizing m with
  | nil => rfl
  | cons x xs ih =>
    rw [List.cons_append, huntRef_skip fuel m _ (hxs x (by simp)), ih (m + 1) fun y hy => hxs y (by simp [hy]),
      List.length_cons, Nat.add_assoc, Nat.add_comm 1]

theorem CleanFrame.length_eq {f : List Byte} (h : CleanFrame f) : f.length = 105 := h.1

theorem CleanFrame.eq_take_append_marker {f : List Byte} (h : CleanFrame f) : f = f.take 104 ++ [Config.marker] := by
  obtain ⟨hlen, -, hlast, -⟩ := h
  exact eq_take_append_last hlen hlast

/-- Inside a clean frame, from byte `k` on and before its last byte, there is no marker. -/
theorem CleanFrame.ne_marker_of_mem {f : List Byte} (h : CleanFrame f) {k j : Nat} (hk : 1 ≤ k) (hj : j ≤ 104)
    {x : Byte} (hx : x ∈ (f.take j).drop k) : x ≠ Config.marker := by
  obtain ⟨-, -, -, hclean⟩ := h
  obtain ⟨i, hi⟩ := List.mem_iff_getElem?.mp hx
  rw [List.getElem?_drop, List.getElem?_take] at hi
  split at hi
  · rintro rfl
    exact hclean (k + i) (by omega) (by omega) hi
  · cases hi

/-- The 105 bytes a late entry collects first do not lie between markers: their first byte is inside the first frame,
or, entering at its last byte, their last is inside the second. -/
theorem late_candidate_no_markers {f1 f2 : List Byte} {k : Nat} (h1 : CleanFrame f1) (h2 : CleanFrame f2) (hk : 1 ≤ k)
    (hk' : k ≤ 104) :
    ¬((f1.drop k ++ f2.take k)[0]? = some Config.marker ∧ (f1.drop k ++ f2.take k)[104]? = some Config.marker) := by
  obtain ⟨hlen1, -, -, hclean1⟩ := h1
  obtain ⟨-, -, -, hclean2⟩ := h2
  have hdrop : (f1.drop k).length = 105 - k := by rw [List.length_drop, hlen1]
  rintro ⟨hfirst, hlast⟩
  rw [List.getElem?_append_left (by omega), List.getElem?_drop] at hfirst
  rcases Nat.lt_or_eq_of_le hk' with hlt | rfl
  · exact hclean1 k hk (by omega) hfirst
  · rw [List.getElem?_append_right (by omega), hdrop, List.getElem?_take_of_lt (by omega)] at hlast
    exact hclean2 103 (by omega) (by omega) hlast

/-- Entering `k` bytes late, the reader rejects its first candidate, which ends in the second frame, and goes on there
in `read_until`. -/
theorem framesRefFrom_late {f1 f2 : List Byte} {k j : Nat} (fuel : Nat) (rest : List Byte) (h1 : CleanFrame f1)
    (h2 : CleanFrame f2) (hk : 1 ≤ k) (hkj : k ≤ j) (hj : j ≤ 104) :
    framesRefFrom (fuel + 1) 0 (f1.drop k ++ f2.take j ++ rest) = huntRef (fuel + 1) (105 + (j - k)) rest := by
  have hlen1 := h1.length_eq
  have hlen2 := h2.length_eq
  have htake : f2.take j = f2.take k ++ (f2.take j).drop k := by
    conv_lhs => rw [← List.take_append_drop k (f2.take j), List.take_take, Nat.min_eq_left hkj]
  have hcand : (f1.drop k ++ f2.take k).length = 105 := by simp; omega
  have hskip : ((f2.take j).drop k).length = j - k := by simp; omega
  rw [htake, ← List.append_assoc, List.append_assoc (f1.drop k ++ f2.take k),
    framesRefFrom_of_rejected fuel 0 _ hcand (late_candidate_no_markers h1 h2 hk (by omega)),
    huntRef_append_of_no_marker _ _ _ fun _ => h2.ne_marker_of_mem hk hj, hskip, Nat.zero_add]

/-- Past the second frame's last byte the reader starts anew. -/
theorem framesRefFrom_late_whole {f1 f2 : List Byte} {k : Nat} (fuel : Nat) (rest : List Byte) (h1 : CleanFrame f1)
    (h2 : CleanFrame f2) (hk : 1 ≤ k) (hk' : k ≤ 104) :
    framesRefFrom (fuel + 1) 0 (f1.drop k ++ f2 ++ rest) = framesRefFrom (fuel + 1) (210 - k) rest := by
  have hwhole : f1.drop k ++ f2 ++ rest = f1.drop k ++ f2.take 104 ++ (Config.marker :: rest) := by
    conv_lhs => rw [h2.eq_take_append_marker]
    simp
  rw [hwhole, framesRefFrom_late fuel _ h1 h2 hk hk' (Nat.le_refl 104), huntRef_marker]
  congr 1
  omega

/-- A clean frame is what the reader accepts. -/
theorem framesRefFrom_cleanFrame {f : List Byte} (fuel m : Nat) (rest : List Byte) (h : CleanFrame f) :
    framesRefFrom (fuel + 1) m (f ++ rest) =
      ((m + 105, f) :: (framesRefFrom fuel (m + 105) rest).1, (framesRefFrom fuel (m + 105) rest).2) := by
  obtain ⟨hlen, hfirst, hlast, -⟩ := h
  exact framesRefFrom_of_accepted fuel m rest hlen ⟨hfirst, hlast⟩

theorem framesRefFrom_nil (fuel m : Nat) : framesRefFrom fuel m [] = ([], .inReadExact 0) := by
  cases fuel with
  | zero => rfl
  | succ fuel => exact framesRefFrom_of_short fuel m (by simp)

/-- The reader over three clean frames, entered aligned. -/
theorem framesRef_aligned {f1 f2 f3 : List Byte} (h1 : CleanFrame f1) (h2 : CleanFrame f2) (h3 : CleanFrame f3) :
    framesRef (f1 ++ f2 ++ f3) = ([(105, f1), (210, f2), (315, f3)], .inReadExact 0) := by
  have hfuel : (f1 ++ f2 ++ f3).length + 1 = 313 + 1 + 1 + 1 := by
    simp [h1.length_eq, h2.length_eq, h3.length_eq]
  have hlist : f1 ++ f2 ++ f3 = f1 ++ (f2 ++ (f3 ++ [])) := by simp
  rw [framesRef, hfuel, hlist, framesRefFrom_cleanFrame _ _ _ h1, framesRefFrom_cleanFrame _ _ _ h2,
    framesRefFrom_cleanFrame _ _ _ h3, framesRefFrom_nil]

/-- The reader over a stream entered late, up to byte `j` of the second frame. -/
theorem framesRef_late_hunting {f1 f2 : List Byte} {k j : Nat} (h1 : CleanFrame f1) (h2 : CleanFrame f2) (hk : 1 ≤ k)
    (hkj : k ≤ j) (hj : j ≤ 104) : framesRef (f1.drop k ++ f2.take j) = ([], .inReadUntil) := by
  have h := framesRefFrom_late (f1.drop k ++ f2.take j).length [] h1 h2 hk hkj hj
  rwa [List.append_nil, huntRef_nil] at h

/-- The reader over a stream entered late, up to the end of the second frame. -/
theorem framesRef_late_restart {f1 f2 : List Byte} {k : Nat} (h1 : CleanFrame f1) (h2 : CleanFrame f2) (hk : 1 ≤ k)
    (hk' : k ≤ 104) : framesRef (f1.drop k ++ f2) = ([], .inReadExact 0) := by
  have h := framesRefFrom_late_whole (f1.drop k ++ f2).length [] h1 h2 hk hk'
  rwa [List.append_nil, framesRefFrom_nil] at h

/-- The reader over a stream entered late, up to the end of the third frame. -/
theorem framesRef_late_third {f1 f2 f3 : List Byte} {k : Nat} (h1 : CleanFrame f1) (h2 : CleanFrame f2)
    (h3 : CleanFrame f3) (hk : 1 ≤ k) (hk' : k ≤ 104) :
    framesRef (f1.drop k ++ f2 ++ f3) = ([(315 - k, f3)], .inReadExact 0) := by
  have hcount : 210 - k + 105 = 315 - k := by omega
  have h := framesRefFrom_cleanFrame (f1.drop k ++ f2 ++ f3).length (210 - k) [] h3
  rw [List.append_nil, framesRefFrom_nil, hcount] at h
  exact (framesRefFrom_late_whole _ f3 h1 h2 hk hk').trans h

/-- Settles O53: FS follows the reader (O52's theorem), whose frames over these streams are computed above. -/
theorem oneResyncCost : Obligations.OneResyncCost := by
  intro f1 f2 f3 s hl hs h1 h2 h3
  refine ⟨fun k hk hk' => ⟨fun j hkj hj => ?hunting, ?restart, ?third⟩, ?aligned⟩
  case hunting => exact frameTrace_of_framesRef hl hs (framesRef_late_hunting h1 h2 hk hkj hj)
  case restart =>
    obtain ⟨u, hu, hm, c, hc, hzero⟩ := frameTrace_of_framesRef hl hs (framesRef_late_restart h1 h2 hk hk')
    exact ⟨u, hu, hm, by rw [hc, BitVec.eq_of_toNat_eq (y := 0#7) hzero]⟩
  case third =>
    obtain ⟨u, hu, -⟩ := frameTrace_of_framesRef hl hs (framesRef_late_third h1 h2 h3 hk hk')
    exact ⟨u, hu⟩
  case aligned =>
    obtain ⟨u, hu, -⟩ := frameTrace_of_framesRef hl hs (framesRef_aligned h1 h2 h3)
    exact ⟨u, hu⟩

end Sys2Proof.Machine
end

section
/-! PROOFS, 41_nonce_builder.md: what evaluating a port of NB answers (R141 to R144, R147), the bytes of the last frame
NB does not read (R145), and that no output port of NB or RD is state of its own (R140, 42_record_decoder.md R160). -/
namespace Sys2Proof.Machine

/-! ## NB's functions -/

theorem nbStitleValue_eq (s : State) : nbStitleValue s = frameSlice .nbStitle 14 8 s := rfl

theorem nbIcValue_eq (s : State) : nbIcValue s = frameSlice .nbIc 24 4 s := rfl

theorem nbCtValue_eq (s : State) : nbCtValue s = frameSlice .nbCt 28 74 s := rfl

/-- The nonce is the system title and then the counter (R143). -/
theorem nbNonceValue_of_ok {s : State} {st ic : List Byte} (hst : nbStitleValue s = .ok st)
    (hic : nbIcValue s = .ok ic) : nbNonceValue s = .ok (st ++ ic) := by
  obtain ⟨hv, hst'⟩ := frameSlice_ok hst
  obtain ⟨-, hic'⟩ := frameSlice_ok hic
  simp only [nbNonceValue, frameSlice_valid hv, hst', hic']

theorem nbNonceValue_of_invalid {s : State} (h : s.last.valid = some false) :
    nbNonceValue s = .error (.portHoldsNoValue .nbNonce) := by
  simp only [nbNonceValue, frameSlice_invalid h]

/-- In a whole frame every slice has its bytes, in frame order. -/
theorem FrameWhole.exists_frameSlice {s : State} (h : FrameWhole s) (p : Port) {off len : Nat}
    (hin : off + len ≤ 105) :
    ∃ bs, frameSlice p off len s = .ok bs ∧ bs.length = len ∧
      ∀ i, i < len → readByte .frame (off + i) s = .ok (bs.getD i 0#8) := by
  obtain ⟨hv, hheld⟩ := h
  obtain ⟨bs, hbs⟩ : ∃ bs, readBytes .frame s off len = .ok bs :=
    readBytes_total hin fun j hj => hheld (off + j) (by omega)
  exact ⟨bs, (frameSlice_valid hv).trans hbs, readBytes_eq_ok.mp hbs⟩

/-! ## Evaluating a port -/

theorem exec_nbStitle (s : State) : exec .nbStitle s =
    withValue (nbStitleValue s) fun v => .next { s with nb := { s.nb with stitle := some v } } := rfl

theorem exec_nbIc (s : State) : exec .nbIc s =
    withValue (nbIcValue s) fun v => .next { s with nb := { s.nb with ic := some v } } := rfl

theorem exec_nbNonce (s : State) : exec .nbNonce s =
    withValue (nbNonceValue s) fun v => .next { s with nb := { s.nb with nonce := some v } } := rfl

theorem exec_nbCtext (s : State) : exec .nbCtext s =
    withValue (nbCtValue s) fun v => .next { s with nb := { s.nb with ct := some v } } := rfl

/-- In a whole frame an operation that drives a port with a slice goes on, with the slice's bytes. -/
theorem FrameWhole.exists_drive {s : State} (h : FrameWhole s) (p : Port) {off len : Nat} (drive : List Byte → State)
    (hin : off + len ≤ 105) :
    ∃ v, (withValue (frameSlice p off len s) fun v => .next (drive v)) = .next (drive v) ∧ v.length = len ∧
      ∀ i, i < len → readByte .frame (off + i) s = .ok (v.getD i 0#8) := by
  obtain ⟨v, hv, hbytes⟩ := h.exists_frameSlice p hin
  exact ⟨v, by rw [hv, withValue_ok], hbytes⟩

/-- Settles O22: each port's slice lies inside the frame, and driving a port writes no byte space. -/
theorem nbSlicesAreFrameBytes : Obligations.NbSlicesAreFrameBytes := by
  intro s h
  refine ⟨?stitle, ?ic, ?ctext, fun nb => bytesUnchanged_of_eq rfl rfl rfl⟩
  case stitle =>
    rw [exec_nbStitle, nbStitleValue_eq]
    exact h.exists_drive .nbStitle _ (by omega)
  case ic =>
    rw [exec_nbIc, nbIcValue_eq]
    exact h.exists_drive .nbIc _ (by omega)
  case ctext =>
    rw [exec_nbCtext, nbCtValue_eq]
    exact h.exists_drive .nbCt _ (by omega)

/-! ## The bytes NB reads -/

theorem frameSlice_congr {p : Port} {off len : Nat} {s s' : State} (hv : s.last.valid = s'.last.valid)
    (h : ∀ i, off ≤ i → i < off + len → readByte .frame i s = readByte .frame i s') :
    frameSlice p off len s = frameSlice p off len s' := by
  have hbytes : readBytes .frame s off len = readBytes .frame s' off len :=
    readBytes_congr fun j hj => h (off + j) (by omega) (by omega)
  simp only [frameSlice, hv, hbytes]

/-- The nonce depends on bytes 14..21 and 24..27 alone (R143). -/
theorem nbNonceValue_congr {s s' : State} (hv : s.last.valid = s'.last.valid)
    (h : ∀ i, 14 ≤ i ∧ i ≤ 21 ∨ 24 ≤ i ∧ i ≤ 27 → readByte .frame i s = readByte .frame i s') :
    nbNonceValue s = nbNonceValue s' := by
  have hst : frameSlice .nbNonce Config.stOff Config.stLen s = frameSlice .nbNonce Config.stOff Config.stLen s' :=
    frameSlice_congr (off := 14) (len := 8) hv fun i _ _ => h i (by omega)
  have hic : frameSlice .nbNonce Config.icOff Config.icLen s = frameSlice .nbNonce Config.icOff Config.icLen s' :=
    frameSlice_congr (off := 24) (len := 4) hv fun i _ _ => h i (by omega)
  simp only [nbNonceValue, hst, hic]

/-- Settles O23: the nonce of a whole frame is its two slices joined, and it reads no other byte. -/
theorem nonceIsTitleThenCounter : Obligations.NonceIsTitleThenCounter := by
  refine ⟨fun s h => ?joined, fun s s' h h' hagree => ?agree⟩
  case joined =>
    obtain ⟨st, hst, hstlen, hstread⟩ := h.exists_frameSlice .nbStitle (off := 14) (len := 8) (by omega)
    obtain ⟨ic, hic, hiclen, hicread⟩ := h.exists_frameSlice .nbIc (off := 24) (len := 4) (by omega)
    refine ⟨st ++ ic, ?_, by simp [hstlen, hiclen], fun i hi => ?_, fun i hi => ?_, fun st' ic' hst' hic' => ?_,
      bytesUnchanged_of_eq rfl rfl rfl⟩
    · rw [exec_nbNonce, nbNonceValue_of_ok hst hic, withValue_ok]
    · rw [hstread i hi, List.getD_append _ _ _ _ (by omega)]
    · rw [hicread i hi, List.getD_append_right _ _ _ _ (by omega), hstlen, Nat.add_sub_cancel_left]
    · rw [Except.ok.inj (hst.symm.trans hst'), Except.ok.inj (hic.symm.trans hic')]
  case agree =>
    obtain ⟨hv, -⟩ := h
    obtain ⟨hv', -⟩ := h'
    exact nbNonceValue_congr (hv.trans hv'.symm) hagree

/-- Settles O26: each of the four functions reads within the bytes on which the frames agree. -/
theorem nbIgnoresUnreadFrameBytes : Obligations.NbIgnoresUnreadFrameBytes := by
  intro s s' hv hagree
  have hst : nbStitleValue s = nbStitleValue s' :=
    frameSlice_congr (off := 14) (len := 8) hv fun i _ _ => hagree i (by omega)
  have hic : nbIcValue s = nbIcValue s' :=
    frameSlice_congr (off := 24) (len := 4) hv fun i _ _ => hagree i (by omega)
  have hct : nbCtValue s = nbCtValue s' :=
    frameSlice_congr (off := 28) (len := 74) hv fun i _ _ => hagree i (by omega)
  have hnonce : nbNonceValue s = nbNonceValue s' := nbNonceValue_congr hv fun i _ => hagree i (by omega)
  simp only [nbPortsOf, hv, hst, hic, hct, hnonce]

/-! ## Ports with and without a value (R147) -/

@[simp] theorem portValue_ok {α : Type} (v : α) : portValue (.ok v) = some v := rfl

@[simp] theorem portValue_error {α : Type} (f : Fault) : portValue (.error f : Except Fault α) = none := rfl

/-- Settles O24: with no frame each of NB's functions faults, and its port holds no value; in a whole frame each
answers. -/
theorem nbPortsNeedFrame : Obligations.NbPortsNeedFrame := by
  refine ⟨nbPortsOf_valid, fun s hv => ?noFrame, fun s h => ?whole⟩
  case noFrame =>
    have hst : nbStitleValue s = .error (.portHoldsNoValue .nbStitle) := frameSlice_invalid hv
    have hic : nbIcValue s = .error (.portHoldsNoValue .nbIc) := frameSlice_invalid hv
    have hct : nbCtValue s = .error (.portHoldsNoValue .nbCt) := frameSlice_invalid hv
    have hnonce := nbNonceValue_of_invalid hv
    refine ⟨?_, ?_, ?_, ?_, ?_⟩
    · rw [exec_nbStitle, hst, withValue_error]
    · rw [exec_nbIc, hic, withValue_error]
    · rw [exec_nbNonce, hnonce, withValue_error]
    · rw [exec_nbCtext, hct, withValue_error]
    · simp only [nbPortsOf, hv, hst, hic, hnonce, hct, portValue_error]
  case whole =>
    obtain ⟨st, hst, -⟩ := h.exists_frameSlice .nbStitle (off := 14) (len := 8) (by omega)
    obtain ⟨ic, hic, -⟩ := h.exists_frameSlice .nbIc (off := 24) (len := 4) (by omega)
    obtain ⟨ct, hct, -⟩ := h.exists_frameSlice .nbCt (off := 28) (len := 74) (by omega)
    rw [← nbStitleValue_eq] at hst
    rw [← nbIcValue_eq] at hic
    rw [← nbCtValue_eq] at hct
    have hnonce := nbNonceValue_of_ok hst hic
    obtain ⟨hv, -⟩ := h
    exact ⟨st, ic, ct, hst, hic, hnonce, hct, by simp only [nbPortsOf, hv, hst, hic, hnonce, hct, portValue_ok]⟩

/-! ## The ports are combinational -/

/-- Every transition of a word ends by settling NB's ports. -/
theorem takeWord_next_settled {w : StreamWord} {s t : State} (h : takeWord w s = .next t) : ∃ u, t = settleNb u := by
  rcases takeWord_next_cases h with ⟨-, rfl⟩ | ⟨-, rfl⟩ | ⟨-, rfl⟩ | ⟨b, c, -, -, -, -, rfl⟩ |
    ⟨c, bytes, -, -, -, -, -, -, rfl⟩ | ⟨b, c, b0, u, -, -, -, -, -, -, -, rfl⟩ | ⟨b, u, -, -, -, -, rfl⟩ |
    ⟨u, -, -, -, rfl⟩ <;> exact ⟨_, rfl⟩

/-- Settling NB's ports keeps the frame they are functions of. -/
theorem nbAgree_settleNb (s : State) : NbAgree (settleNb s) := (nbPortsOf_of_last_eq (settleNb_last s)).symm

/-- Settles O25: a word ends in a settled state (`takeWord_next_settled`), whatever the ports were before it. -/
theorem nbPortsFollowLastFrame : Obligations.NbPortsFollowLastFrame := by
  intro w s t h
  obtain ⟨u, rfl⟩ := takeWord_next_settled h
  exact nbAgree_settleNb u

theorem nbAgree_of_eq {s t : State} (h : NbAgree s) (hl : t.last = s.last) (hnb : t.nb = s.nb) : NbAgree t :=
  (hnb.trans h).trans (nbPortsOf_of_last_eq hl).symm

/-- RD's ports depend on RD's inputs alone. -/
theorem rdPortsOf_of_rdIn_eq {s t : State} (h : t.rdIn = s.rdIn) : rdPortsOf t = rdPortsOf s := by
  have hr : ∀ i, readByte .payload i t = readByte .payload i s := fun i => readByte_of_spaceOf_eq i (by simp [h])
  simp only [rdPortsOf, decodePayload, rdCheckOf, readReading, readTimestamp, readQuantities, payloadU8, payloadBe16,
    payloadBe32, h, hr]

theorem rdAgree_of_eq {s t : State} (h : RdAgree s) (hin : t.rdIn = s.rdIn) (hrd : t.rd = s.rd) : RdAgree t := by
  rw [RdAgree, rdPortsOf_of_rdIn_eq hin, hrd]
  exact h

/-- An engine result drives RD's output ports with their functions of the inputs it presents, and NB is not
concerned. -/
theorem presentResult_agree {plain : List Byte} {authOk : Bool} {s t : State} (hnb : NbAgree s)
    (h : presentResult plain authOk s = .next t) : NbAgree t ∧ RdAgree t := by
  obtain ⟨rd, hrd, rfl⟩ := execRdDecode_next h
  exact ⟨nbAgree_of_eq hnb rfl rfl, (rdPortsOf_of_rdIn_eq rfl).trans hrd⟩

/-- Settles O40: a word settles NB's ports (O25) and leaves RD alone; an engine result drives RD's and leaves NB alone;
evaluating an operation drives what its port already carries (O47). -/
theorem stepKeepsPortsCombinational : Obligations.StepKeepsPortsCombinational := by
  intro s t hnb hrd hstep
  rcases step_next_cases hstep with ⟨-, rfl⟩ | ⟨w, rest, -, hw⟩ | ⟨plain, ok, rest, -, he⟩ | ⟨i, rest, -, hf, hi⟩
  · exact ⟨hnb, hrd⟩
  · obtain ⟨-, hrdIn, hports, -⟩ := takeWord_fsFrame hw
    exact ⟨nbPortsFollowLastFrame w _ t hw, rdAgree_of_eq hrd hrdIn hports⟩
  · exact presentResult_agree (s := { s with input := rest }) (nbAgree_of_eq hnb rfl rfl) he
  · have hnb' : NbAgree { s with input := rest } := nbAgree_of_eq hnb rfl rfl
    have hrd' : RdAgree { s with input := rest } := rdAgree_of_eq hrd rfl rfl
    rw [evaluatingPortsIsIdempotent i _ t hf hnb' hrd' hi]
    exact ⟨hnb', hrd'⟩

end Sys2Proof.Machine
end

section
/-! PROOFS, 42_record_decoder.md: what RD_CHECK and RD_DECODE answer for each outcome of the shape check (R161, R162),
the fourteen field rules (R163 to R176), and the payload bytes RD does not read (R177). -/
namespace Sys2Proof.Machine

/-! ## The outcome of the shape check -/

/-- NONE is no cause of a failure. -/
theorem CheckFails.ne_noCause {s : State} {c : RdCause} (h : CheckFails s c) : c ≠ .noCause := by
  rintro rfl
  exact h

theorem CheckPasses.not_checkFails {s : State} {c : RdCause} (h : CheckPasses s) : ¬CheckFails s c := fun hf =>
  hf.ne_noCause (Except.ok.inj ((rdCheckOf_fails hf).symm.trans (rdCheckOf_passes h)))

theorem CheckFails.cause_unique {s : State} {c c' : RdCause} (h : CheckFails s c) (h' : CheckFails s c') : c = c' :=
  Except.ok.inj ((rdCheckOf_fails h).symm.trans (rdCheckOf_fails h'))

/-- The check has an outcome wherever it can read `P[0]` when it needs it. -/
theorem checkPasses_or_checkFails {s : State} (h : s.rdIn.len = 74#8 → ∃ b, readByte .payload 0 s = .ok b) :
    CheckPasses s ∨ ∃ c, CheckFails s c := by
  rcases rdCheckOf_cases s with ⟨ha, -⟩ | ⟨ha, hl, -⟩ | ⟨f, -, hl, hf, -⟩ | ⟨b, ha, hl, hr, hb, -⟩ | ⟨ha, hl, hr, -⟩
  · exact .inr ⟨.auth, ha⟩
  · exact .inr ⟨.len, ha, hl⟩
  · obtain ⟨b, hb⟩ := h hl
    rw [hb] at hf
    cases hf
  · exact .inr ⟨.tag, ha, hl, b, hr, hb⟩
  · exact .inl ⟨ha, hl, hr⟩

/-! ## RD_CHECK -/

theorem exec_rdCheck (s : State) : exec .rdCheck s = execRdCheck s := rfl

theorem exec_rdCheck_of_checkPasses {s : State} (h : CheckPasses s) : exec .rdCheck s = .next (driveCheckOk s) := by
  rw [exec_rdCheck, execRdCheck, rdCheckOf_passes h, withValue_ok]

theorem exec_rdCheck_of_checkFails {s : State} {c : RdCause} (h : CheckFails s c) :
    exec .rdCheck s = .next (raiseEvent (.decryptionError c) s) := by
  rw [exec_rdCheck, execRdCheck, rdCheckOf_fails h, withValue_ok]
  cases c with
  | noCause => exact absurd rfl h.ne_noCause
  | len => rfl
  | tag => rfl
  | auth => rfl

/-- A raised DecryptionError is surfaced by RD's error ports, with its cause (60_exceptions.md R200). -/
theorem decryptionError_mem_raisedEvents (c : RdCause) (s : State) :
    Event.decryptionError c ∈ raisedEvents (raiseEvent (.decryptionError c) s) :=
  List.mem_append_right _ (List.mem_singleton.mpr rfl)

theorem bytesUnchanged_rd (s : State) (rd : RdPorts) : BytesUnchanged s { s with rd := rd } :=
  bytesUnchanged_of_eq rfl rfl rfl

/-- Settles O27: RD_CHECK answers what `rdCheckOf` finds, and that is one value, so the outcomes exclude each other. -/
theorem rdCheckValidatesShape : Obligations.RdCheckValidatesShape := fun s =>
  ⟨exec_rdCheck_of_checkPasses,
    fun c h => ⟨_, exec_rdCheck_of_checkFails h, rfl, rfl, rfl, rfl, decryptionError_mem_raisedEvents c s⟩,
    checkPasses_or_checkFails, fun _ h => h.not_checkFails, fun _ _ h h' => h.cause_unique h', bytesUnchanged_rd s⟩

/-! ## The reading of a payload whose bytes are all there -/

/-- Every entry of the payload holds its byte of `p`. -/
def PayloadReads (s : State) (p : Nat → Byte) : Prop := ∀ i, i < 74 → readByte .payload i s = .ok (p i)

/-- `be32(P, o)` on the bytes `p` (00_scope.md R10). -/
def be32At (p : Nat → Byte) (o : Nat) : BitVec 32 := be32 (p o) (p (o + 1)) (p (o + 2)) (p (o + 3))

/-- The reading of the bytes `p`, field by field at the offsets of 20_memory.md R55. -/
def readingOf (p : Nat → Byte) : Reading :=
  { year := be16 (p 22) (p 23), month := p 24, day := p 25, hour := p 27, minute := p 28, second := p 29
    activeEnergyIn := be32At p 35, activeEnergyOut := be32At p 40
    reactiveEnergyIn := be32At p 45, reactiveEnergyOut := be32At p 50
    activePowerIn := be32At p 55, activePowerOut := be32At p 60
    reactivePowerIn := be32At p 65, reactivePowerOut := be32At p 70 }

section
variable {s : State} {p : Nat → Byte}

theorem PayloadReads.payloadU8 (h : PayloadReads s p) {o : Nat} (ho : o < 74) : payloadU8 o s = .ok (p o) := h o ho

theorem PayloadReads.payloadBe16 (h : PayloadReads s p) {o : Nat} (ho : o + 1 < 74) :
    payloadBe16 o s = .ok (be16 (p o) (p (o + 1))) :=
  payloadBe16_ok (h o (by omega)) (h (o + 1) ho)

theorem PayloadReads.payloadBe32 (h : PayloadReads s p) {o : Nat} (ho : o + 3 < 74) :
    payloadBe32 o s = .ok (be32At p o) :=
  payloadBe32_ok (h o (by omega)) (h (o + 1) (by omega)) (h (o + 2) (by omega)) (h (o + 3) ho)

theorem PayloadReads.readTimestamp (h : PayloadReads s p) :
    readTimestamp s = .ok (be16 (p 22) (p 23), p 24, p 25, p 27, p 28, p 29) := by
  have hyear := h.payloadBe16 (o := 22) (by omega)
  have hbyte (o : Nat) (ho : o < 74) : Machine.payloadU8 o s = .ok (p o) := h.payloadU8 ho
  simp only [Machine.readTimestamp, hyear, hbyte 24 (by decide), hbyte 25 (by decide), hbyte 27 (by decide),
    hbyte 28 (by decide), hbyte 29 (by decide)]

theorem PayloadReads.readQuantities (h : PayloadReads s p) {o : Nat} (ho : o + 18 < 74) :
    readQuantities o s = .ok (be32At p o, be32At p (o + 5), be32At p (o + 10), be32At p (o + 15)) := by
  simp only [Machine.readQuantities, h.payloadBe32 (show o + 3 < 74 by omega),
    h.payloadBe32 (show o + 5 + 3 < 74 by omega), h.payloadBe32 (show o + 10 + 3 < 74 by omega),
    h.payloadBe32 (show o + 15 + 3 < 74 by omega)]

theorem PayloadReads.readReading (h : PayloadReads s p) : readReading s = .ok (readingOf p) := by
  have henergy := h.readQuantities (o := 35) (by omega)
  have hpower := h.readQuantities (o := 55) (by omega)
  simp only [Machine.readReading, h.readTimestamp, henergy, hpower]
  rfl

end

/-! ## RD_DECODE -/

theorem exec_rdDecode (s : State) : exec .rdDecode s = execRdDecode s := rfl

theorem exec_rdDecode_of_checkPasses {s : State} {r : Reading} (h : CheckPasses s) (hr : readReading s = .ok r) :
    exec .rdDecode s = .next { s with rd := readingPorts r } := by
  have hd : decodePayload s = .ok (.ok r) := by rw [decodePayload, rdCheckOf_passes h, hr]
  rw [exec_rdDecode, execRdDecode, hd, withValue_ok]

theorem decodePayload_of_checkFails {s : State} {c : RdCause} (h : CheckFails s c) :
    decodePayload s = .ok (.error c) := by
  rw [decodePayload, rdCheckOf_fails h]
  cases c with
  | noCause => exact absurd rfl h.ne_noCause
  | len => rfl
  | tag => rfl
  | auth => rfl

theorem exec_rdDecode_of_checkFails {s : State} {c : RdCause} (h : CheckFails s c) :
    exec .rdDecode s = .next (raiseEvent (.decryptionError c) s) := by
  rw [exec_rdDecode, execRdDecode, decodePayload_of_checkFails h, withValue_ok]

/-- Settles O28: a passing check drives the ports of `readingOf` the payload's bytes, a failing one raises its
DecryptionError. -/
theorem rdDecodeGivesReading : Obligations.RdDecodeGivesReading := by
  refine ⟨fun s p hc hp => ?passes, be32_toNat, fun s c hf => ?fails⟩
  case passes =>
    have hr : readReading s = .ok (readingOf p) := PayloadReads.readReading hp
    exact ⟨_, readingOf p, exec_rdDecode_of_checkPasses hc hr, rfl, rfl, rfl, rfl, be16_toNat _ _,
      rfl, rfl, rfl, rfl, rfl, rfl, rfl, rfl, rfl, rfl, rfl, rfl, rfl,
      rfl, rfl, rfl, rfl, rfl, rfl, rfl, rfl, rfl, rfl, rfl, rfl, rfl, rfl, bytesUnchanged_rd s _⟩
  case fails =>
    exact ⟨_, exec_rdDecode_of_checkFails hf, rfl, rfl, rfl, rfl, decryptionError_mem_raisedEvents c s,
      rfl, rfl, rfl, rfl, rfl, rfl, rfl, rfl, rfl, rfl, rfl, rfl, rfl, rfl, bytesUnchanged_rd s _⟩

/-! ## The field rules -/

/-- An operation that reads the byte at `o` into one port of RD obeys the byte-wide rule. -/
theorem byteFieldRule_of_readField {i : Instr} {port : Port} {o : Nat} {put : RdPorts → Byte → RdPorts}
    (h : ∀ s, exec i s = readField port (payloadU8 o s) (fun v => { s with rd := put s.rd v }) s) :
    ByteFieldRule i o put := by
  intro s a hc ha
  exact ⟨_, (h s).trans (readField_passes hc ha), rfl, bytesUnchanged_rd s _⟩

/-- An operation that reads four bytes from `o` into one port of RD obeys the 32-bit rule. -/
theorem quantityRule_of_readField {i : Instr} {port : Port} {o : Nat} {put : RdPorts → BitVec 32 → RdPorts}
    (h : ∀ s, exec i s = readField port (payloadBe32 o s) (fun v => { s with rd := put s.rd v }) s) :
    QuantityRule i o put := by
  intro s a0 a1 a2 a3 hc h0 h1 h2 h3
  exact ⟨_, be32 a0 a1 a2 a3, (h s).trans (readField_passes hc (payloadBe32_ok h0 h1 h2 h3)), rfl,
    be32_toNat a0 a1 a2 a3, bytesUnchanged_rd s _⟩

theorem exec_rdYear (s : State) : exec .rdYear s =
    readField .rdYear (payloadBe16 22 s) (fun v => { s with rd := { s.rd with year := some v } }) s := rfl

/-- Settles O29: the year is the one two-byte field; the other five obey the byte-wide rule. -/
theorem rdTimestampFields : Obligations.RdTimestampFields := by
  refine ⟨fun s a0 a1 hc h0 h1 => ?year, ?month, ?day, ?hour, ?minute, ?second⟩
  case year =>
    exact ⟨_, be16 a0 a1, (exec_rdYear s).trans (readField_passes hc (payloadBe16_ok h0 h1)), rfl, be16_toNat a0 a1,
      bytesUnchanged_rd s _⟩
  case month => exact byteFieldRule_of_readField (port := .rdMonth) fun _ => rfl
  case day => exact byteFieldRule_of_readField (port := .rdDay) fun _ => rfl
  case hour => exact byteFieldRule_of_readField (port := .rdHour) fun _ => rfl
  case minute => exact byteFieldRule_of_readField (port := .rdMinute) fun _ => rfl
  case second => exact byteFieldRule_of_readField (port := .rdSecond) fun _ => rfl

/-- Settles O30: each energy count obeys the 32-bit rule at its offset. -/
theorem rdEnergyFields : Obligations.RdEnergyFields :=
  ⟨quantityRule_of_readField (port := .rdAei) fun _ => rfl, quantityRule_of_readField (port := .rdAeo) fun _ => rfl,
    quantityRule_of_readField (port := .rdRei) fun _ => rfl, quantityRule_of_readField (port := .rdReo) fun _ => rfl⟩

/-- Settles O31: each power obeys the 32-bit rule at its offset. -/
theorem rdPowerFields : Obligations.RdPowerFields :=
  ⟨quantityRule_of_readField (port := .rdApi) fun _ => rfl, quantityRule_of_readField (port := .rdApo) fun _ => rfl,
    quantityRule_of_readField (port := .rdRpi) fun _ => rfl, quantityRule_of_readField (port := .rdRpo) fun _ => rfl⟩

/-! ## The payload bytes RD reads -/

/-- The bytes the fourteen fields are read from: 22..25 and 27..29 of the timestamp, and four bytes out of every five
from 35 on. -/
abbrev IsFieldByte (i : Nat) : Prop :=
  22 ≤ i ∧ i ≤ 25 ∨ 27 ≤ i ∧ i ≤ 29 ∨ 35 ≤ i ∧ i ≤ 73 ∧ i % 5 ≠ 4

section
variable {s s' : State}

theorem payloadBe16_congr {o : Nat} (h : ∀ j, j < 2 → readByte .payload (o + j) s = readByte .payload (o + j) s') :
    payloadBe16 o s = payloadBe16 o s' := by
  have h0 : readByte .payload o s = readByte .payload o s' := h 0 (by omega)
  simp only [payloadBe16, h0, h 1 (by omega)]

theorem payloadBe32_congr {o : Nat} (h : ∀ j, j < 4 → readByte .payload (o + j) s = readByte .payload (o + j) s') :
    payloadBe32 o s = payloadBe32 o s' := by
  have h0 : readByte .payload o s = readByte .payload o s' := h 0 (by omega)
  simp only [payloadBe32, h0, h 1 (by omega), h 2 (by omega), h 3 (by omega)]

/-- The reading depends on the field bytes alone. -/
theorem readReading_congr (h : ∀ i, IsFieldByte i → readByte .payload i s = readByte .payload i s') :
    readReading s = readReading s' := by
  have hyear : payloadBe16 22 s = payloadBe16 22 s' :=
    payloadBe16_congr fun j hj => h (22 + j) (by omega)
  have hbyte (o : Nat) (ho : IsFieldByte o) : payloadU8 o s = payloadU8 o s' := h o ho
  have htime : readTimestamp s = readTimestamp s' := by
    simp only [readTimestamp, hyear, hbyte 24 (by decide), hbyte 25 (by decide), hbyte 27 (by decide),
      hbyte 28 (by decide), hbyte 29 (by decide)]
  have hquantity (o : Nat) (ho : 35 ≤ o ∧ o ≤ 70 ∧ o % 5 = 0) : payloadBe32 o s = payloadBe32 o s' :=
    payloadBe32_congr fun j hj => h (o + j) (by omega)
  have hfamily (o : Nat) (ho : 35 ≤ o ∧ o ≤ 55 ∧ o % 5 = 0) : readQuantities o s = readQuantities o s' := by
    simp only [readQuantities, hquantity o (by omega), hquantity (o + 5) (by omega), hquantity (o + 10) (by omega),
      hquantity (o + 15) (by omega)]
  simp only [readReading, htime, hfamily 35 (by omega), hfamily 55 (by omega)]

/-- RD's ports depend on the check and on the reading. -/
theorem rdPortsOf_congr (hcheck : rdCheckOf s = rdCheckOf s') (hread : readReading s = readReading s') :
    rdPortsOf s = rdPortsOf s' := by
  simp only [rdPortsOf, decodePayload, hcheck, hread]

end

theorem rdPortsOf_of_checkFails {s : State} {c : RdCause} (h : CheckFails s c) :
    rdPortsOf s = some (RdPorts.failed c) :=
  rdPortsOf_of_check_fails (rdCheckOf_fails h) h.ne_noCause

/-- Settles O33: neither the check nor a field reads one of R177's bytes; and AUTH and LEN are found before `P[0]` is
read. -/
theorem rdIgnoresUnreadPayloadBytes : Obligations.RdIgnoresUnreadPayloadBytes := by
  refine ⟨fun s s' hlen hauth hagree => ?unread, fun s s' hlen hauth hfails => ?noByte⟩
  case unread =>
    have hcheck : rdCheckOf s = rdCheckOf s' := by simp only [rdCheckOf, hlen, hauth, hagree 0 (by omega)]
    exact rdPortsOf_congr hcheck (readReading_congr fun i hi => hagree i (by omega))
  case noByte =>
    obtain ⟨c, hc, hc'⟩ : ∃ c, CheckFails s c ∧ CheckFails s' c := by
      cases ha : s.rdIn.authFail with
      | true => exact ⟨.auth, ha, hauth.symm.trans ha⟩
      | false =>
        have hl : s.rdIn.len ≠ 74#8 := by simpa [ha] using hfails
        exact ⟨.len, ⟨ha, hl⟩, hauth.symm.trans ha, hlen ▸ hl⟩
    rw [rdPortsOf_of_checkFails hc, rdPortsOf_of_checkFails hc']

end Sys2Proof.Machine
end

section
/-! PROOFS, 60_exceptions.md: the words of what happens on the line (R216), the pulses of a step (R207), what the engine
and the host leave alone (R217), and the reading path from the last frame through the engine to RD (R219). -/
namespace Sys2Proof.Machine

/-! ## The transport's words (R216) -/

/-- Settles O8: the word of each event decodes to its row by its control bits. -/
theorem transportEventsRunTheirRows : Obligations.TransportEventsRunTheirRows := fun s =>
  ⟨fun b => takeWord_of_decode (decode_byteWord b) s, takeWord_of_decode (decode_of_no_control_bit rfl rfl rfl) s,
    takeWord_of_decode (decode_of_fail rfl rfl) s⟩

/-! ## One pulse at most (R207) -/

/-- Settles O43: each of the five cases of `takeWord_pulse_cases` raises at most one pulse over none. -/
theorem atMostOnePulsePerStep : Obligations.AtMostOnePulsePerStep := by
  intro w s t h
  rcases takeWord_pulse_cases h with ⟨-, hp, -⟩ | ⟨-, hp, -⟩ | ⟨-, hp, -⟩ | ⟨-, hp, -⟩ | ⟨-, -, hp, -⟩ <;>
    simp [hp, noPulses]

/-! ## What the engine and the host leave alone (R217) -/

/-- An evaluation that goes on is a combinational row going on. -/
theorem evaluateOp_next {i : Instr} {s t : State} (h : evaluateOp i s = .next t) :
    i.format = .comb ∧ exec i s = .next t := by
  cases hf : i.format with
  | comb => exact ⟨rfl, (evaluateOp_of_comb hf s).symm.trans h⟩
  | stream => rw [evaluateOp_of_stream hf] at h; cases h

/-- Settles O46: an engine result writes RD's ports alone (`presentResult_next`), an evaluation output ports of NB or of
RD (`comb_next_frame`). -/
theorem hostActionsLeaveFsAlone : Obligations.HostActionsLeaveFsAlone := by
  refine ⟨fun plain ok s t h => ?engine, fun i s t h => ?evaluate⟩
  case engine =>
    obtain ⟨rd, rfl⟩ := presentResult_next h
    exact ⟨rfl, rfl, rfl, rfl, rfl, rfl⟩
  case evaluate =>
    obtain ⟨hf, hexec⟩ := evaluateOp_next h
    rcases comb_next_frame hf hexec with ⟨nb, rfl⟩ | ⟨rd, rfl⟩ <;> exact ⟨rfl, rfl, rfl, rfl, rfl, rfl⟩

/-! ## What the engine drives (R219) -/

theorem toNat_len_driveRd (plain : List Byte) (authOk : Bool) (s : State) :
    (driveRd plain authOk s).rdIn.len.toNat = min plain.length 255 := by
  rw [driveRd_rdIn, BitVec.toNat_ofNat]
  omega

/-- `rd_pl` starts out empty, so its entries are those of the first 74 bytes the engine returns. -/
theorem read_driveRd (plain : List Byte) (authOk : Bool) (s : State) {i : Nat} (hi : i < 74) :
    (driveRd plain authOk s).rdIn.pl.read i = plain[i]? := by
  rw [driveRd_rdIn, read_writeBytes, read_invalidated, ← List.getElem?_take_of_lt (l := plain) hi]
  split
  · rfl
  · rename_i hout
    exact (List.getElem?_eq_none (by simp only [Config.payloadLen] at hout; omega)).symm

theorem readByte_driveRd_of_lt {plain : List Byte} (authOk : Bool) (s : State) {i : Nat} (hi : i < 74)
    (hlen : i < plain.length) : readByte .payload i (driveRd plain authOk s) = .ok (plain.getD i 0#8) :=
  readByte_eq_ok.mpr ⟨hi, by rw [spaceOf_payload, read_driveRd plain authOk s hi]; simp [hlen]⟩

theorem readByte_driveRd_of_ge {plain : List Byte} (authOk : Bool) (s : State) {i : Nat} (hi : i < 74)
    (hlen : plain.length ≤ i) :
    readByte .payload i (driveRd plain authOk s) = .error (.readNone (.entry .payload i)) := by
  have hnone : (driveRd plain authOk s).rdIn.pl.read i = none :=
    (read_driveRd plain authOk s hi).trans (List.getElem?_eq_none hlen)
  simp only [readByte, spaceSize_payload, spaceOf_payload, hi, if_true, hnone]

/-- Where `rd_len` is 74 the engine returned 74 bytes, and every entry of the payload holds its byte. -/
theorem payloadReads_driveRd {plain : List Byte} {authOk : Bool} {s : State}
    (h : (driveRd plain authOk s).rdIn.len = 74#8) :
    PayloadReads (driveRd plain authOk s) fun i => plain.getD i 0#8 := fun i hi => by
  have hsat := toNat_len_driveRd plain authOk s
  rw [h, show (74#8).toNat = 74 from rfl] at hsat
  exact readByte_driveRd_of_lt authOk s hi (by omega)

/-- RD answers whatever the engine presents: it reads the payload only where the engine has filled it. -/
theorem presentResult_answers (plain : List Byte) (authOk : Bool) (s : State) :
    ∃ t, presentResult plain authOk s = .next t := by
  have houtcome : CheckPasses (driveRd plain authOk s) ∨ ∃ c, CheckFails (driveRd plain authOk s) c :=
    checkPasses_or_checkFails fun hlen => ⟨_, payloadReads_driveRd hlen 0 (by decide)⟩
  rw [presentResult, ← exec_rdDecode]
  rcases houtcome with hc | ⟨c, hc⟩
  · have ⟨_, hlen, _⟩ := hc
    exact ⟨_, exec_rdDecode_of_checkPasses hc (payloadReads_driveRd hlen).readReading⟩
  · exact ⟨_, exec_rdDecode_of_checkFails hc⟩

/-- Settles O34: RD answers (`presentResult_answers`) on the inputs `driveRd` gives it, and writes its output ports
alone. -/
theorem engineResultDrivesRd : Obligations.EngineResultDrivesRd := by
  intro plain ok s
  obtain ⟨t, ht⟩ := presentResult_answers plain ok s
  obtain ⟨rd, hrd, rfl⟩ := execRdDecode_next ht
  have hread (i : Nat) : readByte .payload i { driveRd plain ok s with rd := rd } =
      readByte .payload i (driveRd plain ok s) := readByte_of_spaceOf_eq i rfl
  refine ⟨_, ht, toNat_len_driveRd plain ok s, fun i hi hlen => ?_, fun i hi hlen => ?_, rfl,
    (rdPortsOf_of_rdIn_eq rfl).trans hrd, rfl⟩
  · rw [hread, readByte_driveRd_of_lt ok s hi hlen]
  · rw [hread, readByte_driveRd_of_ge ok s hi hlen]

/-! ## The reading path (R219) -/

/-- Ports that agree with RD's inputs carry `rd_ok` = 1 exactly where the check passes (42_record_decoder.md R161). -/
theorem RdAgree.ok_iff_checkPasses {s : State} (h : RdAgree s) : s.rd.ok = true ↔ CheckPasses s := by
  constructor
  · intro hok
    cases hc : rdCheckOf s with
    | error f => simp [RdAgree, rdPortsOf, decodePayload, hc] at h
    | ok c =>
      by_cases hpass : c = .noCause
      · exact rdCheckOf_eq_passes (hpass ▸ hc)
      · rw [RdAgree, rdPortsOf_of_check_fails hc hpass, Option.some.injEq] at h
        rw [← h] at hok
        cases hok
  · intro hc
    obtain ⟨r, -, hports⟩ := h.exists_reading hc
    rw [hports]
    rfl

/-- In a whole frame NB hands out a nonce of 12 bytes (41_nonce_builder.md R143). -/
theorem FrameWhole.exists_nonce {s : State} (h : FrameWhole s) :
    ∃ nonce, nbNonceValue s = .ok nonce ∧ nonce.length = 12 := by
  obtain ⟨st, hst, hstlen, -⟩ := h.exists_frameSlice .nbStitle (off := 14) (len := 8) (by omega)
  obtain ⟨ic, hic, hiclen, -⟩ := h.exists_frameSlice .nbIc (off := 24) (len := 4) (by omega)
  exact ⟨st ++ ic, nbNonceValue_of_ok hst hic, by rw [List.length_append, hstlen, hiclen]⟩

theorem readingPath_of_values {dec : Decrypt} {key nonce ct : List Byte} {s : State}
    (hnonce : nbNonceValue s = .ok nonce) (hct : nbCtValue s = .ok ct) :
    readingPath dec key s = presentResult (dec key nonce ct).1 (dec key nonce ct).2 s := by
  rw [readingPath, hnonce, withValue_ok, hct, withValue_ok]

/-- The check on the engine's result, in the terms of the result. -/
theorem checkPasses_driveRd_iff (plain : List Byte) (authOk : Bool) (s : State) :
    CheckPasses (driveRd plain authOk s) ↔
      (s.build.authChecked = true → authOk = true) ∧ plain.length = 74 ∧ plain[0]? = some Config.payloadTag := by
  have hauth : (driveRd plain authOk s).rdIn.authFail = false ↔ (s.build.authChecked = true → authOk = true) := by
    simp
  have hlen : (driveRd plain authOk s).rdIn.len = 74#8 ↔ plain.length = 74 := by
    rw [← BitVec.toNat_inj, toNat_len_driveRd, show (74#8).toNat = 74 from rfl]
    omega
  have htag : readByte .payload 0 (driveRd plain authOk s) = .ok 0x0F#8 ↔ plain[0]? = some Config.payloadTag := by
    rw [readByte_eq_ok, spaceOf_payload, read_driveRd plain authOk s (by decide)]
    exact and_iff_right (by decide)
  rw [CheckPasses, hauth, hlen, htag]

theorem checkPasses_congr {s t : State} (h : t.rdIn = s.rdIn) : CheckPasses t ↔ CheckPasses s := by
  rw [CheckPasses, CheckPasses, h, readByte_of_spaceOf_eq (sp := .payload) 0 (congrArg RdInputs.pl h)]

/-- Settles O35: a whole frame has a nonce and a ciphertext, and what the engine makes of them drives RD as in O34, whose
check is on the engine's result. -/
theorem readingPathDecodesEngineResult : Obligations.ReadingPathDecodesEngineResult := by
  intro dec key s h
  obtain ⟨nonce, hnonce, hnlen⟩ := h.exists_nonce
  obtain ⟨ct, hct, hctlen, -⟩ := h.exists_frameSlice .nbCt (off := 28) (len := 74) (by omega)
  rw [← nbCtValue_eq] at hct
  obtain ⟨t, ht, hlen, hheld, hnone, hauth, hagree, hframe⟩ :=
    engineResultDrivesRd (dec key nonce ct).1 (dec key nonce ct).2 s
  obtain ⟨rd, rfl⟩ := presentResult_next ht
  have hok := hagree.ok_iff_checkPasses.trans ((checkPasses_congr rfl).trans (checkPasses_driveRd_iff _ _ s))
  exact ⟨nonce, ct, _, hnonce, hnlen, hct, hctlen, (readingPath_of_values hnonce hct).trans ht, hagree, ht, hlen, hheld,
    hnone, hauth, hframe, rfl, rfl, hok⟩

end Sys2Proof.Machine
end

section
/-! PROOFS, 70_reset_and_hazards.md: what each word does before the first RESET (R230), how many words the next frame
takes (R234), and the read of a field while the check fails (R235). -/
namespace Sys2Proof.Machine

/-! ## The next frame takes 105 words (R234) -/

theorem countNat_discardBytes_le {k : Nat} {next : FsMode} {s t : State} (h : discardBytes k next s = .ok t) :
    countNat t ≤ countNat s := by
  rcases discardBytes_ok_cases h with ⟨-, rfl⟩ | ⟨-, rfl⟩ | ⟨n, d, -, -, rfl⟩
  · exact Nat.le_refl _
  · exact Nat.zero_le _
  · exact Nat.le_refl _

/-- Only COLLECT_STORE lengthens the candidate, by one byte (R104). -/
theorem countNat_takeWord_le {w : StreamWord} {s t : State} (h : takeWord w s = .next t) :
    countNat t ≤ countNat s + 1 := by
  rcases takeWord_next_cases h with ⟨-, rfl⟩ | ⟨-, rfl⟩ | ⟨-, rfl⟩ | ⟨b, c, -, -, hc, hlt, rfl⟩ |
    ⟨c, bytes, -, -, -, -, -, -, rfl⟩ | ⟨b, c, b0, u, -, -, -, -, -, -, hu, rfl⟩ | ⟨b, u, -, -, -, hu, rfl⟩ |
    ⟨u, -, -, hu, rfl⟩
  · exact Nat.zero_le _
  · exact Nat.zero_le _
  · exact Nat.le_succ _
  · have hcount : (settleNb (storeCandidate c b (beginStep s))).fs.count = some (c + 1#7) := rfl
    rw [countNat_of_count hc, countNat_of_count hcount]
    bv_omega
  · exact Nat.zero_le _
  · exact (countNat_discardBytes_le hu).trans (Nat.zero_le _)
  · exact (countNat_discardBytes_le hu).trans (Nat.le_succ _)
  · exact (countNat_discardBytes_le hu).trans (Nat.le_succ _)

/-- Only COLLECT_ACCEPT emits `frame_done`, and it needs 104 bytes held (R105). -/
theorem frameDone_false_of_countNat_lt {w : StreamWord} {s t : State} (h : takeWord w s = .next t)
    (hlt : countNat s < 104) : t.pulses.frameDone = false := by
  rcases takeWord_next_cases h with ⟨-, rfl⟩ | ⟨-, rfl⟩ | ⟨-, rfl⟩ | ⟨b, c, -, -, -, -, rfl⟩ |
    ⟨c, bytes, -, -, hc, hfull, -⟩ | ⟨b, c, b0, u, -, -, -, -, -, -, hu, rfl⟩ | ⟨b, u, -, -, -, hu, rfl⟩ |
    ⟨u, -, -, hu, rfl⟩
  · rfl
  · rfl
  · rfl
  · rfl
  · rw [countNat_of_count hc] at hlt
    omega
  all_goals
    obtain ⟨-, -, -, -, -, -, -, hdone, -⟩ := discardBytes_frame hu
    exact hdone

theorem takeWords_cons_eq_some {w : StreamWord} {ws : List StreamWord} {s t : State}
    (h : takeWords (w :: ws) s = some t) : ∃ u, takeWord w s = .next u ∧ takeWords ws u = some t := by
  rw [takeWords] at h
  split at h
  · exact ⟨_, ‹_›, h⟩
  · cases h
  · cases h

/-- The bytes already held and the words still to come must make 105. -/
theorem frameDone_false_of_short_run {ws : List StreamWord} {s t : State} (hne : ws ≠ [])
    (hshort : countNat s + ws.length ≤ 104) (h : takeWords ws s = some t) : t.pulses.frameDone = false := by
  induction ws generalizing s with
  | nil => exact absurd rfl hne
  | cons w ws ih =>
    obtain ⟨u, hw, hrest⟩ := takeWords_cons_eq_some h
    rw [List.length_cons] at hshort
    cases ws with
    | nil =>
      cases hrest
      exact frameDone_false_of_countNat_lt hw (by omega)
    | cons w' ws' =>
      have hstep : countNat u ≤ countNat s + 1 := countNat_takeWord_le hw
      exact ih (by simp) (by omega) hrest

/-- Settles O48: a new candidate holds no byte, so 104 words are one too few. -/
theorem nextFrameTakes105Words : Obligations.NextFrameTakes105Words := by
  rintro ws s t ⟨-, hcount, -⟩ hne hlen h
  have hzero : countNat s = 0 := countNat_of_count hcount
  exact frameDone_false_of_short_run hne (by omega) h

/-! ## Reading a field while the check fails (R235) -/

/-- A row that reads a field into the port `p` faults by that port's name. -/
theorem exec_fault_of_readField {α : Type} {i : Instr} {p : Port} {v : Except Fault α} {put : α → State} {s : State}
    {c : RdCause} (hc : CheckFails s c) (h : exec i s = readField p v put s) :
    exec i s = .fault (.portHoldsNoValue p) :=
  h.trans (readField_fails hc)

/-- Settles O32: each of the fourteen rows is a `readField` of its own port. -/
theorem rdFieldReadFaultsWhenCheckFails : Obligations.RdFieldReadFaultsWhenCheckFails := by
  intro s c hc
  and_intros <;> exact exec_fault_of_readField hc rfl

/-! ## Before the first RESET (R230) -/

theorem exec_byte_of_mode_none {s : State} (b : Byte) (hm : s.fs.mode = none) :
    exec (.byte b) s = .fault (.readNone .fsMode) := by
  have hsel : selectByteOp b s = .error (.readNone .fsMode) := by rw [selectByteOp, hm]
  change execByte b s = _
  rw [execByte, hsel, withValue_error]

theorem beginStep_eq_self {s : State} (hp : s.pulses = noPulses) (he : s.fsEvents = []) : beginStep s = s := by
  rw [beginStep, ← he, ← noPulses, ← hp]

/-- IDLE clears the pulses and the events and recomputes NB's ports: where nothing of that differs, it does nothing. -/
theorem exec_idle_eq_self {s : State} (hp : s.pulses = noPulses) (he : s.fsEvents = []) (hnb : NbAgree s) :
    exec .idle s = .next s := by
  change Host.Outcome.next (settleNb (beginStep s)) = .next s
  rw [beginStep_eq_self hp he, settleNb, with_nb_eq_self hnb.symm]

/-- Settles O11: BYTE needs `fs_mode`; IDLE finds no pulse, no event and no frame; FAIL is O12 with the last frame it
keeps; RESET writes every register. -/
theorem powerOnBeforeReset : Obligations.PowerOnBeforeReset := by
  intro bld b
  refine ⟨⟨rfl, rfl, rfl, allNone_of_nil rfl, allNone_of_nil rfl, rfl⟩, exec_byte_of_mode_none b rfl,
    exec_idle_eq_self rfl rfl rfl, ?fail, ⟨_, rfl, rfl, rfl⟩⟩
  case fail =>
    obtain ⟨t, ht, -, -, -, hmode, hcount, hdisc, hcand, hlast, -⟩ :=
      failDropsCandidateKeepsFrame (State.powerOn bld)
    exact ⟨t, ht, hmode, hcount, hdisc, hcand, allNone_of_nil (congrArg FrameReg.bytes hlast),
      congrArg FrameReg.valid hlast⟩

end Sys2Proof.Machine
end
